-- ==== Sys2Proof/Word.lean ====
section
/-! DEFINITION. The word type of the block and the two groups of words the spec names (`00_scope.md` R6, R14). -/

namespace Sys2Proof

/-- A 32-bit unsigned word (`00_scope.md` R6, `WORD_W`). `x + y` on it is the spec's `x +32 y`:
the sum modulo 2^32, the carry out discarded (R11, `40_md5_compressor.md` R121). -/
abbrev Word := BitVec 32

/-- One byte of the byte view of the OUT space (`20_memory.md` R69). -/
abbrev Byte := BitVec 8

/-- A 64-bit state as its two words (R14): `lo` is X0, bits 31:0, and `hi` is X1, bits 63:32
(`20_memory.md` R67). -/
structure OtpPair where
  lo : Word
  hi : Word
deriving DecidableEq, Repr

/-- A digest (A, B, C, D), 4 words of 32 bits (R6, R14). The same four places hold the working words
`a, b, c, d` of one evaluation of `compress` (`40_md5_compressor.md` R124). -/
structure Digest where
  a : Word
  b : Word
  c : Word
  d : Word
deriving DecidableEq, Repr

end Sys2Proof
end

