-- ==== Sys2Proof/Syntax.lean ====
section
/-! DEFINITION. The syntax: the five commands of `spec/opcode_table.json`, the fields of a command word,
the registers of the window, and what HOST, CORE, RESET and the output port can do next. -/

namespace Sys2Proof

/-- The command set OTPCMD-1 (`30_encoding.md` R94), one constructor per row of the opcode table.
No command has an operand in its word (R90, R97): every operand is read from a register. -/
inductive Instr where
  | compress
  | fold
  | round
  | iterate
  | chain
deriving DecidableEq, Repr

/-- The two fields of the one format CMDW (R91): `op` is bits 3:0 and `zero` is bits 31:4. -/
structure CmdFields where
  op   : BitVec 4
  zero : BitVec 28
deriving DecidableEq, Repr

/-- The sixteen 32-bit places of the register window (`20_memory.md` R60). RES_LO and RES_HI are the
names under which the host reads CUR_LO and CUR_HI (`10_state.md` R24). -/
inductive Reg where
  | cmd
  | status
  | seedLo
  | seedHi
  | rounds
  | capacity
  | resLo
  | resHi
  | digA
  | digB
  | digC
  | digD
  | reserved30
  | reserved34
  | reserved38
  | reserved3C
deriving DecidableEq, Repr

/-- What one of the three agents does next (`00_scope.md` R8, R9), or the platform's output port. An interleaving of the agents is a
list of these (log 2). `off` is the byte offset from REG_BASE and `width` the number of bytes of the
access, so that an access `20_memory.md` R70 gives no meaning can be written down and refused (log 10). -/
inductive Event where
  /-- HOST: the transition `HostWrite(off, data)`. -/
  | hostWrite (off width : Nat) (data : Word)
  /-- HOST: the transition `HostRead(off)`. -/
  | hostRead (off width : Nat)
  /-- HOST: the line `WAIT` of the host notation (`30_encoding.md` R104): poll STATUS until BUSY = 0. -/
  | wait
  /-- CORE: the block gets its turn; a `CoreStep` if one is enabled. -/
  | core
  /-- RESET: the transition `Reset`. -/
  | reset
  /-- The platform: its output port stops performing `OutWrite`s (`stalled = true`), or performs them again
  (`70_reset_and_hazards.md` R247, log 13). -/
  | outPort (stalled : Bool)
deriving DecidableEq, Repr

end Sys2Proof
end

