-- ==== Sys2Proof/WellFormed.lean ====
section
/-! DEFINITION. The checks on syntax. A command has no operand (`30_encoding.md` R97), so every `Instr` is
well formed and there is no check on it; what can be ill formed is a command word and a register access. -/

namespace Sys2Proof

/-- A command word is one of the five of `30_encoding.md` R94: bits 31:4 are zero and OP is 1 to 5
(R91, R95). -/
def CmdFields.wf (f : CmdFields) : Bool :=
  f.zero == 0#28 && (1#4 ≤ f.op && f.op ≤ 5#4)

/-- A register access is one `20_memory.md` R70 gives a meaning: 32 bits wide, at an offset that is a
multiple of 4, inside the 64-byte window. -/
def accessWf (off width : Nat) : Bool :=
  width == 4 && (off % 4 == 0 && decide (off < 64))

/-- An event is well formed when its register access is. -/
def Event.wf : Event → Bool
  | .hostWrite off width _ => accessWf off width
  | .hostRead off width => accessWf off width
  | .wait => true
  | .core => true
  | .reset => true
  | .outPort _ => true

end Sys2Proof
end

