-- ==== Sys2Proof/Decode.lean ====
section
/-! DEFINITION. The decoder of command words, total on all 2^32 of them (`30_encoding.md` R93), and after
it the encoder, written from the opcode map R94. -/

namespace Sys2Proof

/-- The fields of format CMDW (R91). -/
def fieldsOf (w : Word) : CmdFields where
  op := w.extractLsb' 0 4
  zero := w.extractLsb' 4 28

/-- The opcode map of R94, read from left to right; `10_state.md` R31 reads OPL with it too. -/
def Instr.ofOpcode (op : BitVec 4) : Option Instr :=
  match op.toNat with
  | 1 => some .compress
  | 2 => some .fold
  | 3 => some .round
  | 4 => some .iterate
  | 5 => some .chain
  | _ => none

/-- Why a word is no command (R95). Each of them is the fault ILLEGAL_CMD (R93, `60_exceptions.md` R201). -/
inductive DecodeReject where
  /-- A bit of 31:4 is not zero, whatever OP is. -/
  | zeroFieldSet (zero : BitVec 28)
  /-- OP is 0 or 6 to 15. -/
  | reservedOpcode (op : BitVec 4)
deriving DecidableEq, Repr

/-- What decoding a word gives. -/
inductive Decoded where
  | instr (i : Instr)
  | reject (why : DecodeReject)
deriving DecidableEq, Repr

/-- Decoding a command word, in the order of R93: first bits 31:4, then OP. -/
def decode (w : Word) : Decoded :=
  if (fieldsOf w).zero ≠ 0#28 then .reject (.zeroFieldSet (fieldsOf w).zero)
  else
    match Instr.ofOpcode (fieldsOf w).op with
    | some i => .instr i
    | none => .reject (.reservedOpcode (fieldsOf w).op)

/-- The opcode of a command (R94). -/
def Instr.opcode : Instr → BitVec 4
  | .compress => 1#4
  | .fold => 2#4
  | .round => 3#4
  | .iterate => 4#4
  | .chain => 5#4

/-- The word with the given fields: `op` in bits 3:0, `zero` in bits 31:4 (R91). -/
def CmdFields.word (f : CmdFields) : Word :=
  f.zero ++ f.op

/-- The command word of an instruction (R91, R94): its opcode, and zeros above it. -/
def encode (i : Instr) : Word :=
  CmdFields.word { op := i.opcode, zero := 0#28 }

/-- The instruction the decoder reads from a command whose `nbits` low bits are those of `w` and whose
bits above them are 0. A command is one whole 32-bit word (R90, R101) and has no byte order
(`20_memory.md` R67), so there is no command of more than 32 bits (log 21). -/
def decodeTableWord (nbits w : Nat) : Option Instr :=
  if nbits ≤ 32 then
    match decode (BitVec.ofNat 32 (w % 2 ^ nbits)) with
    | .instr i => some i
    | .reject _ => none
  else none

end Sys2Proof
end

