-- ==== Sys2Proof/Config.lean ====
section
/-! DEFINITION. What an implementation or its platform fixes (`00_scope.md` R7), and the free values. -/

namespace Sys2Proof

/-- The parameters the source leaves open (R7) that a transition depends on.
They stand in `Machine.State`, no transition changes them, and every claim is for every value of them
(D12: a model that quantifies over `MAX_ROUNDS` is exact for all choices). Log 6, log 7. -/
structure Params where
  /-- `MAX_ROUNDS`, any 32-bit value: the largest ROUNDS that ITERATE and CHAIN accept (R7, `60_exceptions.md` R202). -/
  maxRounds : Word
  /-- How many 64-bit elements the buffer the platform has bound to the OUT space really has
  (`30_encoding.md` R106, `60_exceptions.md` R222). The block cannot see it. -/
  outSize : Nat
deriving DecidableEq, Repr

/-- The default `MAX_ROUNDS` of R7, and a buffer that has every element that can be addressed
(`10_state.md` R33: indices `0` to `0xFFFFFFFE`); the second is a DESIGN CHOICE (log 7). -/
def Params.default : Params where
  maxRounds := 0xFFFFFFFF#32
  outSize := 0xFFFFFFFF

/-- FREE VALUE (log 5): the words that reads of RES and DIG return while the block is busy, "any 32-bit
value, possibly different at each read" (`20_memory.md` R65, `93_implementation_defined.md` U2). It is
applied to the counter `Machine.State.draws`; it has no body, so nothing can be proved of its values. -/
opaque Config.freeWord : Nat → Word

end Sys2Proof
end

