-- ==== Sys2Proof/Machine/State.lean ====
section
/-! DEFINITION. The state of one OTPMD5-CORE (`10_state.md` R20), of the OUT space it writes (R33), of its
parameters, and of what the agents do next; the reasons a step can stop; the state after reset (R36). -/

namespace Sys2Proof.Machine

/-- STATUS, its fields under their own names (`10_state.md` R27); bits 31:8 of the word read as 0. -/
structure Status where
  /-- A command is in progress. -/
  busy    : Bool
  /-- The most recent command was accepted and has completed. -/
  done    : Bool
  /-- The most recent CMD write was rejected. -/
  err     : Bool
  /-- At least one host write was dropped because the block was busy (sticky, R29). -/
  wrlost  : Bool
  /-- The code of the rejection, 0 when `err` is false. -/
  errcode : BitVec 4
deriving DecidableEq, Repr

/-- The OUT space in its byte view (`20_memory.md` R69): pairs of a byte address, counted from OUT_BASE,
and the byte there. Canonical form: addresses strictly rising. An address not listed has NO VALUE in the
model (`93_implementation_defined.md` U11, log 9), so no entry can equal what an unlisted address reads as. -/
abbrev Memory := List Host.Cell

/-- The whole state. The fields down to `dig` are the block's: the rows of R20's table, which are 10 words of
32 bits beside STATUS, IDX and OPL, where the rule's closing sentence counts 11 (DEDUCED: the table is
followed, log 24). `mem` is the platform's buffer (R33), `params` is what an implementation fixes
(`00_scope.md` R7), `outStalled` is the platform's output port (`70_reset_and_hazards.md` R247), and the last
three are the model's own. -/
structure State where
  /-- STATUS (R27). -/
  status   : Status
  /-- IDX, the hidden loop counter (R30). -/
  idx      : Word
  /-- OPL, the hidden opcode of the command in progress (R31). -/
  opl      : BitVec 4
  /-- SEED_LO and SEED_HI (R21). -/
  seed     : OtpPair
  /-- ROUNDS (R22). -/
  rounds   : Word
  /-- CAPACITY (R23). -/
  capacity : Word
  /-- CUR_LO and CUR_HI, read by the host as RES_LO and RES_HI (R24). -/
  cur      : OtpPair
  /-- DIG_A, DIG_B, DIG_C, DIG_D (R25). -/
  dig      : Digest
  /-- The OUT space (R33). -/
  mem      : Memory
  /-- The implementation's parameters (log 6, log 7). -/
  params   : Params
  /-- The platform's output port does not perform `OutWrite`s now (`70_reset_and_hazards.md` R247, U9,
  log 13). -/
  outStalled : Bool
  /-- What HOST, CORE, RESET and the output port do next, in order (log 2). -/
  events   : List Event
  /-- The values the host's reads have returned, newest first (log 4). -/
  reads    : List Word
  /-- How many unspecified values have been drawn so far (log 5). -/
  draws    : Nat
deriving DecidableEq, Repr

/-- The three faults of `60_exceptions.md` R200. They are exceptions the machine TAKES (R205, a next
state), not stops of the model. -/
inductive CmdFault where
  /-- Code 1, any CMD write (R201). -/
  | illegalCmd
  /-- Code 2, ITERATE and CHAIN (R202). -/
  | roundsRange
  /-- Code 3, CHAIN (R203). -/
  | capacity
deriving DecidableEq, Repr

/-- The reasons the machine can stop with a fault. -/
inductive Fault where
  /-- Raised by a `CoreStep` while BUSY with an OPL outside 1 to 5: no rule of the spec gives that step
  (`10_state.md` R31). No run reaches it, since only acceptance sets BUSY and it sets OPL to one of the
  five opcodes. Safe (log 11). -/
  | noStepRule (opl : BitVec 4)
deriving DecidableEq, Repr

/-- The reasons the model gives no meaning. -/
inductive Refusal where
  /-- Raised by an arm of `exec` whose instruction has no meaning yet (none). Safe. -/
  | notModelled (mnemonic : String)
  /-- Raised by `HostWrite` and `HostRead` for an access that is not 32 bits wide at a multiple of 4
  inside the window: "the spec gives it no meaning, and a model refuses it" (`20_memory.md` R70,
  `93_implementation_defined.md` U3). Safe (log 10). -/
  | regAccess (off width : Nat)
  /-- Raised by an element step of CHAIN whose index the platform's real buffer does not have: "what those
  do is the platform's affair and outside this spec" (`60_exceptions.md` R222, U7). Only possible when the
  launch premise of R236 is broken. Safe (log 7). -/
  | outsideBuffer (index : Word)
deriving DecidableEq, Repr

/-- What every transition of this machine answers. -/
abbrev Result := Host.Outcome State Fault Refusal

/-- STATUS after reset: idle, no result, no fault, WRLOST clear (R36). -/
def Status.reset : Status where
  busy := false
  done := false
  err := false
  wrlost := false
  errcode := 0#4

/-- The machine right after reset (R36): every register, flag and hidden counter 0. Nothing is listed in
the OUT space, the parameters are the defaults, the output port performs writes (log 13), and nothing is
queued (log 2, log 4 to log 9). -/
def State.reset : State where
  seed := { lo := 0#32, hi := 0#32 }
  rounds := 0#32
  capacity := 0#32
  cur := { lo := 0#32, hi := 0#32 }
  dig := { a := 0#32, b := 0#32, c := 0#32, d := 0#32 }
  status := Status.reset
  idx := 0#32
  opl := 0#4
  mem := []
  params := Params.default
  outStalled := false
  events := []
  reads := []
  draws := 0

end Sys2Proof.Machine
end

