-- ==== Sys2Proof/Machine/Flags.lean ====
section
/-! DEFINITION. STATUS: the word the host reads (`30_encoding.md` R92), and what acceptance, rejection,
completion and a dropped write do to the flags (`10_state.md` R27). There are no other flags (R32). -/

namespace Sys2Proof.Machine

/-- The code of a fault (`60_exceptions.md` R200). -/
def faultCode : CmdFault → BitVec 4
  | .illegalCmd => 1#4
  | .roundsRange => 2#4
  | .capacity => 3#4

/-- The STATUS word: `{24 zero bits, ERRCODE[3:0], WRLOST, ERR, DONE, BUSY}` (`20_memory.md` R65). -/
def statusWord (st : Status) : Word :=
  0#24 ++ st.errcode ++ BitVec.ofBool st.wrlost ++ BitVec.ofBool st.err ++ BitVec.ofBool st.done
    ++ BitVec.ofBool st.busy

/-- Acceptance: `DONE <- 0; ERR <- 0; ERRCODE <- 0; BUSY <- 1` (`40_md5_compressor.md` R126 and the accept
rules of the other four commands). WRLOST keeps its value (R29). -/
def statusAccepted (st : Status) : Status :=
  { st with done := false, err := false, errcode := 0#4, busy := true }

/-- Rejection: `DONE <- 0; ERR <- 1; ERRCODE <- code`, BUSY stays (`60_exceptions.md` R205). -/
def statusRejected (f : CmdFault) (st : Status) : Status :=
  { st with done := false, err := true, errcode := faultCode f }

/-- Completion: `BUSY <- 0; DONE <- 1` (R126 and the completing steps of the other four commands). -/
def statusCompleted (st : Status) : Status :=
  { st with busy := false, done := true }

/-- A host write dropped while busy: `WRLOST <- 1` (`20_memory.md` R64). -/
def statusWriteLost (st : Status) : Status :=
  { st with wrlost := true }

/-- The operand check of ITERATE and CHAIN, unsigned: `ROUNDS > MAX_ROUNDS` (`60_exceptions.md` R202). -/
def roundsOutOfRange (s : State) : Bool :=
  s.params.maxRounds.ult s.rounds

/-- The operand check of CHAIN, unsigned and strict: `CAPACITY < ROUNDS` (`60_exceptions.md` R203). -/
def capacityTooSmall (s : State) : Bool :=
  s.capacity.ult s.rounds

/-- The loop test of ITERATE and CHAIN, unsigned on 32 bits: `IDX < ROUNDS`
(`43_single_result_iterator.md` R172, `44_chain_generator.md` R187). -/
def roundsRemain (s : State) : Bool :=
  s.idx.ult s.rounds

/-- The second test of CHAIN: `IDX + 1 < ROUNDS` (`44_chain_generator.md` R187). It is asked only when
`IDX < ROUNDS`, so the sum does not wrap (R196). -/
def anotherElementFollows (s : State) : Bool :=
  (s.idx + 1#32).ult s.rounds

end Sys2Proof.Machine
end

