-- ==== Sys2Proof/Machine/Md5.lean ====
section
/-! DEFINITION. The MD5 block compressor as a pure function (`40_md5_compressor.md` R120 to R125 and R128 to
R132), and the bytes of a message and of a digest (`20_memory.md` R68, R133). -/

namespace Sys2Proof.Machine

/-- Left rotation, for `1 ≤ n ≤ 31` (R122). Only the sixteen amounts of R129 are ever used (log 20). -/
def rotl32 (x : Word) (n : Nat) : Word :=
  (x <<< n) ||| (x >>> (32 - n))

/-- The function F of MD5 group 1 (R123). -/
def md5F (x y z : Word) : Word := (x &&& y) ||| (~~~x &&& z)

/-- The function G of MD5 group 2 (R123). -/
def md5G (x y z : Word) : Word := (x &&& z) ||| (y &&& ~~~z)

/-- The function H of MD5 group 3 (R123). -/
def md5H (x y z : Word) : Word := x ^^^ y ^^^ z

/-- The function I of MD5 group 4 (R123). -/
def md5I (x y z : Word) : Word := y ^^^ (x ||| ~~~z)

/-- The function of step `i`, by group of 16 steps (R123, R132). -/
def stepFunction (i : Nat) : Word → Word → Word → Word :=
  match i / 16 with
  | 0 => md5F
  | 1 => md5G
  | 2 => md5H
  | _ => md5I

/-- The four initial constants (R128). -/
def initialDigest : Digest where
  a := 0x67452301#32
  b := 0xEFCDAB89#32
  c := 0x98BADCFE#32
  d := 0x10325476#32

/-- The four shift amounts of an MD5 group (R129). -/
def groupShifts (group : Nat) : List Nat :=
  match group with
  | 0 => [7, 12, 17, 22]
  | 1 => [5, 9, 14, 20]
  | 2 => [4, 11, 16, 23]
  | _ => [6, 10, 15, 21]

/-- The shift amount S[i] of step `i` (R129). -/
def shiftAmount (i : Nat) : Nat :=
  (groupShifts (i / 16)).getD (i % 4) 0

/-- K[0] to K[15] (R130). -/
def additiveConstants1 : List Word :=
  [0xD76AA478#32, 0xE8C7B756#32, 0x242070DB#32, 0xC1BDCEEE#32,
   0xF57C0FAF#32, 0x4787C62A#32, 0xA8304613#32, 0xFD469501#32,
   0x698098D8#32, 0x8B44F7AF#32, 0xFFFF5BB1#32, 0x895CD7BE#32,
   0x6B901122#32, 0xFD987193#32, 0xA679438E#32, 0x49B40821#32]

/-- K[16] to K[31] (R130). -/
def additiveConstants2 : List Word :=
  [0xF61E2562#32, 0xC040B340#32, 0x265E5A51#32, 0xE9B6C7AA#32,
   0xD62F105D#32, 0x02441453#32, 0xD8A1E681#32, 0xE7D3FBC8#32,
   0x21E1CDE6#32, 0xC33707D6#32, 0xF4D50D87#32, 0x455A14ED#32,
   0xA9E3E905#32, 0xFCEFA3F8#32, 0x676F02D9#32, 0x8D2A4C8A#32]

/-- K[32] to K[47] (R130). -/
def additiveConstants3 : List Word :=
  [0xFFFA3942#32, 0x8771F681#32, 0x6D9D6122#32, 0xFDE5380C#32,
   0xA4BEEA44#32, 0x4BDECFA9#32, 0xF6BB4B60#32, 0xBEBFBC70#32,
   0x289B7EC6#32, 0xEAA127FA#32, 0xD4EF3085#32, 0x04881D05#32,
   0xD9D4D039#32, 0xE6DB99E5#32, 0x1FA27CF8#32, 0xC4AC5665#32]

/-- K[48] to K[63] (R130). -/
def additiveConstants4 : List Word :=
  [0xF4292244#32, 0x432AFF97#32, 0xAB9423A7#32, 0xFC93A039#32,
   0x655B59C3#32, 0x8F0CCC92#32, 0xFFEFF47D#32, 0x85845DD1#32,
   0x6FA87E4F#32, 0xFE2CE6E0#32, 0xA3014314#32, 0x4E0811A1#32,
   0xF7537E82#32, 0xBD3AF235#32, 0x2AD7D2BB#32, 0xEB86D391#32]

/-- The additive constant K[i] of step `i`, the printed table of R130 (the block computes no sine). -/
def additiveConstant (i : Nat) : Word :=
  (additiveConstants1 ++ additiveConstants2 ++ additiveConstants3 ++ additiveConstants4).getD i 0#32

/-- The index g(i) of the block word that step `i` uses (R131), the column g of R132 (log 23). -/
def blockIndex (i : Nat) : Nat :=
  match i / 16 with
  | 0 => i
  | 1 => (5 * i + 1) % 16
  | 2 => (3 * i + 5) % 16
  | _ => (7 * i) % 16

/-- The sixteen words M[0] to M[15] of the block for a state (R120). Read in the order of `blockIndex`, 48 of
the 64 steps use the word 0, as the table R132 has it; R135 counts 52, and the model follows the table (log 23,
DEDUCED). -/
def block (x : OtpPair) : List Word :=
  [x.lo, x.hi, 0x00000080#32, 0#32, 0#32, 0#32, 0#32, 0#32,
   0#32, 0#32, 0#32, 0#32, 0#32, 0#32, 0x00000040#32, 0#32]

/-- One MD5 step on the working words, for the block `m` (R124). -/
def md5Step (m : List Word) (i : Nat) (w : Digest) : Digest :=
  let t := w.a + stepFunction i w.b w.c w.d + m.getD (blockIndex i) 0#32 + additiveConstant i
  { a := w.d, b := w.b + rotl32 t (shiftAmount i), c := w.b, d := w.c }

/-- The working words before step `n`, that is w_n of R125: steps 0, 1, ..., n-1 taken in this order. -/
def md5Words (m : List Word) : Nat → Digest
  | 0 => initialDigest
  | n + 1 => md5Step m n (md5Words m n)

/-- The feedback of R125: the four initial constants added back. -/
def feedback (w : Digest) : Digest where
  a := initialDigest.a + w.a
  b := initialDigest.b + w.b
  c := initialDigest.c + w.c
  d := initialDigest.d + w.d

/-- The compression of one block: 64 steps and the feedback (R125). -/
@[irreducible] def compressBlock (m : List Word) : Digest :=
  feedback (md5Words m 64)

/-- `compress(x0, x1)` (R125): the compression of the block of R120. -/
def compress (x : OtpPair) : Digest :=
  compressBlock (block x)

/-- The four bytes of a word, least significant first (`20_memory.md` R68). -/
def wordBytes (w : Word) : List Byte :=
  [w.extractLsb' 0 8, w.extractLsb' 8 8, w.extractLsb' 16 8, w.extractLsb' 24 8]

/-- The words of a list of bytes, each from four bytes with the first byte least significant (R68). -/
def wordsOfBytes : List Byte → List Word
  | b0 :: b1 :: b2 :: b3 :: rest => (b3 ++ b2 ++ b1 ++ b0 : BitVec 32) :: wordsOfBytes rest
  | _ => []

/-- The 8-byte message of a state (R68): the bytes of X0, then those of X1. -/
def messageBytes (x : OtpPair) : List Byte :=
  wordBytes x.lo ++ wordBytes x.hi

/-- The bytes of a digest: A, B, C, D, each least significant byte first (R133). -/
def digestBytes (w : Digest) : List Byte :=
  wordBytes w.a ++ wordBytes w.b ++ wordBytes w.c ++ wordBytes w.d

end Sys2Proof.Machine
end

