-- ==== Sys2Proof/Machine/Operands.lean ====
section
/-! DEFINITION. How operands are assembled (`30_encoding.md` R97 to R100): the packing of a state, and the
registers of the window by their offsets (`20_memory.md` R60). -/

namespace Sys2Proof.Machine

/-- `pack(x0, x1) = {x1, x0}`, the 64-bit state: X1 in the more significant half (R98). -/
def pack (x : OtpPair) : BitVec 64 :=
  x.hi ++ x.lo

/-- `unpack(s) = (s[31:0], s[63:32])` (R98). -/
def unpack (v : BitVec 64) : OtpPair where
  lo := v.extractLsb' 0 32
  hi := v.extractLsb' 32 32

/-- The register at a byte offset of the window, if there is one there (`20_memory.md` R60). -/
def regAt (off : Nat) : Option Reg :=
  match off with
  | 0x00 => some .cmd
  | 0x04 => some .status
  | 0x08 => some .seedLo
  | 0x0C => some .seedHi
  | 0x10 => some .rounds
  | 0x14 => some .capacity
  | 0x18 => some .resLo
  | 0x1C => some .resHi
  | 0x20 => some .digA
  | 0x24 => some .digB
  | 0x28 => some .digC
  | 0x2C => some .digD
  | 0x30 => some .reserved30
  | 0x34 => some .reserved34
  | 0x38 => some .reserved38
  | 0x3C => some .reserved3C
  | _ => none

/-- The byte offset of a register (`20_memory.md` R60). -/
def regOffset : Reg → Nat
  | .cmd => 0x00
  | .status => 0x04
  | .seedLo => 0x08
  | .seedHi => 0x0C
  | .rounds => 0x10
  | .capacity => 0x14
  | .resLo => 0x18
  | .resHi => 0x1C
  | .digA => 0x20
  | .digB => 0x24
  | .digC => 0x28
  | .digD => 0x2C
  | .reserved30 => 0x30
  | .reserved34 => 0x34
  | .reserved38 => 0x38
  | .reserved3C => 0x3C

/-- The register that an access of `width` bytes at `off` reaches: only 32-bit accesses at the offsets of
R60 are accesses of this block (`20_memory.md` R70). -/
def regAccessed (off width : Nat) : Option Reg :=
  if width = 4 then regAt off else none

/-- The registers whose value is unspecified while the block is busy: RES and DIG (`20_memory.md` R65). -/
def unspecifiedWhileBusy : Reg → Bool
  | .resLo | .resHi | .digA | .digB | .digC | .digD => true
  | .cmd | .status | .seedLo | .seedHi | .rounds | .capacity
  | .reserved30 | .reserved34 | .reserved38 | .reserved3C => false

end Sys2Proof.Machine
end

