-- ==== Sys2Proof/Machine/Ops.lean ====
section
/-! DEFINITION. The named operations every meaning is written over: the OUT space, the registers, accepting
and rejecting a command, completing it, and advancing the working state. -/

namespace Sys2Proof.Machine

/-! ### The OUT space -/

/-- The canonical form of a memory: addresses strictly rising. -/
def Memory.wf : Memory → Bool
  | [] => true
  | [_] => true
  | x :: y :: rest => decide (x.1 < y.1) && Memory.wf (y :: rest)

/-- One byte of the OUT space; an address nothing has written has no value in the model (log 9). -/
def readByte (m : Memory) (addr : Nat) : Option Byte :=
  match m with
  | [] => none
  | (a, b) :: rest => if a = addr then some b else readByte rest addr

/-- Write one byte, keeping the addresses strictly rising. -/
def writeByte (m : Memory) (addr : Nat) (v : Byte) : Memory :=
  match m with
  | [] => [(addr, v)]
  | (a, b) :: rest =>
    if addr < a then (addr, v) :: (a, b) :: rest
    else if addr = a then (addr, v) :: rest
    else (a, b) :: writeByte rest addr v

/-- Byte `k` of an element: `v[8*k+7 : 8*k]` (`20_memory.md` R69). -/
def elementByte (v : BitVec 64) (k : Nat) : Byte :=
  v.extractLsb' (8 * k) 8

/-- The byte address of element `index`, counted from OUT_BASE: `8*i` (`20_memory.md` R69). -/
def elementAddr (index : Word) : Nat :=
  8 * index.toNat

/-- Write the first `n` bytes of an element, in the order of their addresses. -/
def writeBytes (m : Memory) (addr : Nat) (v : BitVec 64) : Nat → Memory
  | 0 => m
  | n + 1 => writeByte (writeBytes m addr v n) (addr + n) (elementByte v n)

/-- `OutWrite(i, v)`: element `i` becomes `v`, nothing else changes (`20_memory.md` R66); in the byte view
it is `MemWrite(8*i, 8, v)` (`00_scope.md` R12). -/
def outWrite (m : Memory) (index : Word) (v : BitVec 64) : Memory :=
  writeBytes m (elementAddr index) v 8

/-- The element at an index as an observer of the OUT space finds it (`20_memory.md` R72): a value when
all eight of its bytes have one. -/
def readElement (m : Memory) (index : Nat) : Option (BitVec 64) :=
  match readByte m (8 * index), readByte m (8 * index + 1), readByte m (8 * index + 2),
    readByte m (8 * index + 3), readByte m (8 * index + 4), readByte m (8 * index + 5),
    readByte m (8 * index + 6), readByte m (8 * index + 7) with
  | some b0, some b1, some b2, some b3, some b4, some b5, some b6, some b7 =>
    some (b7 ++ b6 ++ b5 ++ b4 ++ b3 ++ b2 ++ b1 ++ b0)
  | _, _, _, _, _, _, _, _ => none

/-! ### Accepting, rejecting and completing a command -/

/-- Acceptance of a command (R126, R151, R161, R171, R186): STATUS, `OPL <- OP`, `IDX <- 0`. -/
def accept (op : BitVec 4) (s : State) : State :=
  { s with status := statusAccepted s.status, opl := op, idx := 0#32 }

/-- `raise <code>`, the block's only trap entry (`60_exceptions.md` R205): STATUS changes, nothing is
saved, control goes nowhere. There is no return from it but the next CMD write (R208): `accept` clears
ERR and ERRCODE, another `reject` overwrites the code. -/
def reject (f : CmdFault) (s : State) : State :=
  { s with status := statusRejected f s.status }

/-- The completing step: `BUSY <- 0; DONE <- 1`. -/
def complete (s : State) : State :=
  { s with status := statusCompleted s.status }

/-- A host write dropped while busy (`20_memory.md` R64). -/
def dropWrite (s : State) : State :=
  { s with status := statusWriteLost s.status }

/-- `CUR <- SEED`, at the acceptance of ITERATE and CHAIN (R171, R186). -/
def loadSeed (s : State) : State :=
  { s with cur := s.seed }

/-- `IDX <- IDX + 1` (`10_state.md` R30). -/
def bumpIdx (s : State) : State :=
  { s with idx := s.idx + 1#32 }

/-- The transition `OutWrite(IDX, {CUR_HI, CUR_LO})` inside a `CoreStep` of CHAIN (R187, R100). -/
def recordCur (s : State) : State :=
  { s with mem := outWrite s.mem s.idx (pack s.cur) }

/-! ### The registers of the window -/

/-- What a read of a register returns when it is specified (`20_memory.md` R65). -/
def regValue (r : Reg) (s : State) : Word :=
  match r with
  | .cmd => 0#32
  | .status => statusWord s.status
  | .seedLo => s.seed.lo
  | .seedHi => s.seed.hi
  | .rounds => s.rounds
  | .capacity => s.capacity
  | .resLo => s.cur.lo
  | .resHi => s.cur.hi
  | .digA => s.dig.a
  | .digB => s.dig.b
  | .digC => s.dig.c
  | .digD => s.dig.d
  | .reserved30 => 0#32
  | .reserved34 => 0#32
  | .reserved38 => 0#32
  | .reserved3C => 0#32

/-- Whether a read of the register now is one of the unspecified reads of R65. -/
def readIsDrawn (r : Reg) (s : State) : Bool :=
  s.status.busy && unspecifiedWhileBusy r

/-- What `HostRead` returns (`20_memory.md` R65): RES and DIG while busy are a free draw, everything else
is exact at all times. -/
def readReg (r : Reg) (s : State) : Word :=
  if readIsDrawn r s then Config.freeWord s.draws else regValue r s

/-- `HostRead` of a register: no state of the block changes (R65, R73); the model notes the value the host
got (log 4) and, for an unspecified read, that one more value has been drawn (log 5). -/
def takeRead (r : Reg) (s : State) : State :=
  { s with reads := readReg r s :: s.reads,
           draws := if readIsDrawn r s then s.draws + 1 else s.draws }

/-- A host write to any register but CMD while idle: the eight operand registers take all 32 bits of the
data (`20_memory.md` R61); STATUS, RES and the reserved offsets ignore it (R63). CMD stores nothing
(`10_state.md` R26): what a write to it starts is `commandWrite` of Machine/Transitions.lean. -/
def storeReg (r : Reg) (v : Word) (s : State) : State :=
  match r with
  | .seedLo => { s with seed := { s.seed with lo := v } }
  | .seedHi => { s with seed := { s.seed with hi := v } }
  | .rounds => { s with rounds := v }
  | .capacity => { s with capacity := v }
  | .digA => { s with dig := { s.dig with a := v } }
  | .digB => { s with dig := { s.dig with b := v } }
  | .digC => { s with dig := { s.dig with c := v } }
  | .digD => { s with dig := { s.dig with d := v } }
  | .cmd => s
  | .status => s
  | .resLo => s
  | .resHi => s
  | .reserved30 => s
  | .reserved34 => s
  | .reserved38 => s
  | .reserved3C => s

/-! ### The queue of events -/

/-- The queue after the next event has been taken off it (log 2). -/
def setEvents (q : List Event) (s : State) : State :=
  { s with events := q }

/-! ### The output port -/

/-- The platform's output port stops performing `OutWrite`s, or performs them again
(`70_reset_and_hazards.md` R247, log 13). -/
def setOutStalled (b : Bool) (s : State) : State :=
  { s with outStalled := b }

/-! ### Reset -/

/-- The transition `Reset` (`70_reset_and_hazards.md` R230): every piece of state of R20 takes its reset
value (R36). The OUT space, the parameters and the platform's port are not touched (R232), nor what the model notes
of the host: its queue, its reads, the count of draws (log 22). -/
def resetBlock (s : State) : State :=
  { State.reset with
    mem := s.mem, params := s.params, outStalled := s.outStalled, events := s.events, reads := s.reads, draws := s.draws }

end Sys2Proof.Machine
end

