-- ==== Sys2Proof/Machine/Folder.lean ====
section
/-! DEFINITION. The 128-to-64 bit XOR folder and its command, FOLD (`41_folder.md`). -/

namespace Sys2Proof.Machine

/-- `fold(A, B, C, D) = (A ^ C, B ^ D)` (R150). -/
def foldDigest (w : Digest) : OtpPair where
  lo := w.a ^^^ w.c
  hi := w.b ^^^ w.d

/-- FOLD, its one step: `CUR <- fold(DIG); BUSY <- 0; DONE <- 1` (R151). -/
def stepFold (s : State) : State :=
  { s with cur := foldDigest s.dig, status := statusCompleted s.status }

/-- The transition of FOLD from `s` (log 1): while busy its `CoreStep`, while idle its acceptance, which
has no check beyond decoding (R151). -/
def execFold (s : State) : Result :=
  if s.status.busy then .next (stepFold s) else .next (accept (Instr.opcode .fold) s)

end Sys2Proof.Machine
end

