-- ==== Sys2Proof/Machine/RoundFunction.lean ====
section
/-! DEFINITION. The OTP round function and its command, ROUND (`42_round_function.md`). -/

namespace Sys2Proof.Machine

/-- `round(x0, x1) = fold(compress(x0, x1))` (R160). -/
def otpRound (x : OtpPair) : OtpPair :=
  foldDigest (compress x)

/-- `round64(s) = pack(round(unpack(s)))` (R160). -/
def round64 (v : BitVec 64) : BitVec 64 :=
  pack (otpRound (unpack v))

/-- ROUND, its one step: `DIG <- compress(SEED); CUR <- fold of that digest; BUSY <- 0; DONE <- 1` (R161). -/
def stepRound (s : State) : State :=
  let w := compress s.seed
  { s with dig := w, cur := foldDigest w, status := statusCompleted s.status }

/-- The transition of ROUND from `s` (log 1): while busy its `CoreStep`, while idle its acceptance, which
has no check beyond decoding (R161). -/
def execRound (s : State) : Result :=
  if s.status.busy then .next (stepRound s) else .next (accept (Instr.opcode .round) s)

/-- One round applied to the working state and counted, shared by ITERATE and CHAIN:
`DIG <- compress(CUR); CUR <- fold of that digest; IDX <- IDX + 1` (R172, R187). -/
def advance (s : State) : State :=
  let w := compress s.cur
  { s with dig := w, cur := foldDigest w, idx := s.idx + 1#32 }

end Sys2Proof.Machine
end

