-- ==== Sys2Proof/Machine/Iterator.lean ====
section
/-! DEFINITION. The single-result iterator and its command, ITERATE (`43_single_result_iterator.md`). -/

namespace Sys2Proof.Machine

/-- `iterate(s, n)`: the round function applied `n` times (R170). -/
def otpIterate (v : BitVec 64) : Nat → BitVec 64
  | 0 => v
  | n + 1 => round64 (otpIterate v n)

/-- ITERATE, its acceptance with the one operand check (R171). -/
def acceptIterate (s : State) : State :=
  if roundsOutOfRange s then reject .roundsRange s
  else loadSeed (accept (Instr.opcode .iterate) s)

/-- ITERATE, its step: a round step while `IDX < ROUNDS`, else the completing step (R172). -/
def stepIterate (s : State) : State :=
  if roundsRemain s then advance s else complete s

/-- The transition of ITERATE from `s` (log 1): while busy its `CoreStep` (R172), while idle its acceptance
or rejection (R171). -/
def execIterate (s : State) : Result :=
  if s.status.busy then .next (stepIterate s) else .next (acceptIterate s)

end Sys2Proof.Machine
end

