-- ==== Sys2Proof/Machine/Chain.lean ====
section
/-! DEFINITION. The chain-sequence generator and its command, CHAIN (`44_chain_generator.md`). -/

namespace Sys2Proof.Machine

/-- `chain(s, n) = [iterate(s, 0), ..., iterate(s, n - 1)]` (R185). -/
def otpChain (v : BitVec 64) (n : Nat) : List (BitVec 64) :=
  (List.range n).map (otpIterate v)

/-- CHAIN, its acceptance with the two operand checks in the order of `60_exceptions.md` R206 (R186). -/
def acceptChain (s : State) : State :=
  if roundsOutOfRange s then reject .roundsRange s
  else if capacityTooSmall s then reject .capacity s
  else loadSeed (accept (Instr.opcode .chain) s)

/-- CHAIN, an element step (R187): record CUR, advance it only if another element follows, count. -/
def elementStep (s : State) : State :=
  if anotherElementFollows s then advance (recordCur s) else bumpIdx (recordCur s)

/-- CHAIN, its step: an element step while `IDX < ROUNDS`, else the completing step (R187). While the platform
stalls the output port the `OutWrite` of an element step is not performed, so the step is not taken and the
block waits with BUSY = 1 (`70_reset_and_hazards.md` R247, U9, log 13). An element the platform's real buffer
does not have is outside the spec (`60_exceptions.md` R222, U7, log 7). -/
def stepChain (s : State) : Result :=
  if roundsRemain s then
    if s.outStalled then .next s
    else if s.idx.toNat < s.params.outSize then .next (elementStep s)
    else .refused (.outsideBuffer s.idx)
  else .next (complete s)

/-- The transition of CHAIN from `s` (log 1): while busy its `CoreStep` (R187), while idle its acceptance
or rejection (R186). -/
def execChain (s : State) : Result :=
  if s.status.busy then stepChain s else .next (acceptChain s)

end Sys2Proof.Machine
end

