-- ==== Sys2Proof/Machine/Compressor.lean ====
section
/-! DEFINITION. The MD5 block compressor's command, COMPRESS (`40_md5_compressor.md` R126). -/

namespace Sys2Proof.Machine

/-- COMPRESS, its one step: `DIG <- compress(SEED); BUSY <- 0; DONE <- 1` (R126). -/
def stepCompress (s : State) : State :=
  { s with dig := compress s.seed, status := statusCompleted s.status }

/-- The transition of COMPRESS from `s` (log 1): while busy its `CoreStep`, while idle its acceptance,
which has no check beyond decoding (R126). -/
def execCompress (s : State) : Result :=
  if s.status.busy then .next (stepCompress s) else .next (accept (Instr.opcode .compress) s)

end Sys2Proof.Machine
end

