-- ==== Sys2Proof/Machine/Dispatch.lean ====
section
/-! DEFINITION. The transition of each command, one arm per constructor of `Instr`. -/

namespace Sys2Proof.Machine

def exec (i : Instr) (s : State) : Host.Outcome State Fault Refusal :=
  match i with
  | .compress => Sys2Proof.Machine.execCompress s
  | .fold => Sys2Proof.Machine.execFold s
  | .round => Sys2Proof.Machine.execRound s
  | .iterate => Sys2Proof.Machine.execIterate s
  | .chain => Sys2Proof.Machine.execChain s

end Sys2Proof.Machine
end

