-- ==== Sys2Proof/Machine/Transitions.lean ====
section
/-! DEFINITION. The transitions of `00_scope.md` R9: `HostWrite`, `HostRead`, `CoreStep` and `Reset` (the
fifth, `OutWrite`, is `recordCur` inside a `CoreStep` of CHAIN), the host's WAIT, and the platform's output
port. -/

namespace Sys2Proof.Machine

/-- A write to CMD while idle (`20_memory.md` R62): the word is decoded (`30_encoding.md` R93); an illegal
word is rejected (`60_exceptions.md` R201), a command makes its acceptance transition. -/
def commandWrite (w : Word) (s : State) : Result :=
  match decode w with
  | .instr i => exec i s
  | .reject _ => .next (reject .illegalCmd s)

/-- `HostWrite` to a register of the window: dropped while busy, whatever the register (`20_memory.md` R64);
while idle a command write (R62) or a plain one (R61, R63). -/
def writeReg (r : Reg) (v : Word) (s : State) : Result :=
  if s.status.busy then .next (dropWrite s)
  else if r = .cmd then commandWrite v s
  else .next (storeReg r v s)

/-- `HostWrite(off, data)`; an access R70 gives no meaning is refused (log 10). -/
def hostWrite (off width : Nat) (data : Word) (s : State) : Result :=
  match regAccessed off width with
  | some r => writeReg r data s
  | none => .refused (.regAccess off width)

/-- `HostRead(off)` (`20_memory.md` R65); an access R70 gives no meaning is refused (log 10). -/
def hostRead (off width : Nat) (s : State) : Result :=
  match regAccessed off width with
  | some r => .next (takeRead r s)
  | none => .refused (.regAccess off width)

/-- `CoreStep` while busy: OPL chooses the command whose step is taken (`10_state.md` R31). An OPL that is
no opcode has no step rule, and no run reaches it (log 11). -/
def coreStep (s : State) : Result :=
  match Instr.ofOpcode s.opl with
  | some i => exec i s
  | none => .fault (.noStepRule s.opl)

/-- The core's turn: a `CoreStep` if one is enabled, that is while BUSY (`00_scope.md` R9); an idle block
does nothing (`60_exceptions.md` R221). -/
def coreTurn (s : State) : Result :=
  if s.status.busy then coreStep s else .next s

/-- One event, taken off the queue. WAIT stays at the head while BUSY = 1 and the core steps meanwhile; it
ends when a poll of STATUS would read BUSY = 0 (`30_encoding.md` R104, log 3): never, while the platform stalls
the output port of a CHAIN (`70_reset_and_hazards.md` R247). -/
def runEvent (e : Event) (rest : List Event) (s : State) : Result :=
  match e with
  | .hostWrite off width data => hostWrite off width data (setEvents rest s)
  | .hostRead off width => hostRead off width (setEvents rest s)
  | .wait => if s.status.busy then coreStep s else .next (setEvents rest s)
  | .core => coreTurn (setEvents rest s)
  | .reset => .next (resetBlock (setEvents rest s))
  | .outPort stalled => .next (setOutStalled stalled (setEvents rest s))

end Sys2Proof.Machine
end

