-- ==== Sys2Proof/Machine/Step.lean ====
section
/-! DEFINITION. One step of the machine: the next event of the queue, or, with nothing queued, the core's
turn (log 2). -/

namespace Sys2Proof.Machine

/-- One transition. With the queue empty a busy block takes a `CoreStep` (weak fairness,
`70_reset_and_hazards.md` R247) and an idle one keeps its state (`60_exceptions.md` R221). -/
def step (s : State) : Host.Outcome State Fault Refusal :=
  match s.events with
  | [] => coreTurn s
  | e :: rest => runEvent e rest s

/-- `s` with the host about to write the command word whose `nbits` low bits are those of `w` to CMD: the
next event is that `HostWrite`, and the block is idle, without which a command write is dropped. The block
fetches no instructions (`10_state.md` R30); this stands for the host's CMD write (log 14). -/
def State.withFetchWord (s : State) (nbits w : Nat) : State :=
  { s with
    status := { s.status with busy := false }
    events := .hostWrite 0x00 4 (BitVec.ofNat 32 (w % 2 ^ nbits)) :: s.events }

end Sys2Proof.Machine
end

