-- ==== Sys2Proof/Machine/HostNotation.lean ====
section
/-! DEFINITION. The host notation of `30_encoding.md` R104 as events, and its two pseudo-instructions
(R105, R106), and the two informal ones of R107. -/

namespace Sys2Proof.Machine

/-- `WR <reg>, <value>` (R104). -/
def lineWr (r : Reg) (v : Word) : Event := .hostWrite (regOffset r) 4 v

/-- `RD <reg>` (R104). -/
def lineRd (r : Reg) : Event := .hostRead (regOffset r) 4

/-- `CMD <mnemonic>` (R104). -/
def lineCmd (i : Instr) : Event := .hostWrite 0x00 4 (encode i)

/-- `CMDW <value>`, for illegal words (R104). -/
def lineCmdw (w : Word) : Event := .hostWrite 0x00 4 w

/-- `computeIterate(seed, rounds)` (R105). -/
def computeIterate (seed : BitVec 64) (rounds : Word) : List Event :=
  [lineWr .seedLo (unpack seed).lo, lineWr .seedHi (unpack seed).hi, lineWr .rounds rounds,
   lineCmd .iterate, .wait, lineRd .status, lineRd .resLo, lineRd .resHi]

/-- `computeChain(output, capacity, seed, rounds)` (R106), after the platform has bound the buffer. -/
def computeChain (capacity : Word) (seed : BitVec 64) (rounds : Word) : List Event :=
  [lineWr .seedLo (unpack seed).lo, lineWr .seedHi (unpack seed).hi, lineWr .rounds rounds,
   lineWr .capacity capacity, lineCmd .chain, .wait, lineRd .status]

/-- The source's informal `compress(x0, x1)` as a host program (R107). -/
def hostCompress (x : OtpPair) : List Event :=
  [lineWr .seedLo x.lo, lineWr .seedHi x.hi, lineCmd .compress, .wait,
   lineRd .digA, lineRd .digB, lineRd .digC, lineRd .digD]

/-- The source's informal `round(state)` as a host program (R107). -/
def hostRound (x : OtpPair) : List Event :=
  [lineWr .seedLo x.lo, lineWr .seedHi x.hi, lineCmd .round, .wait, lineRd .resLo, lineRd .resHi]

end Sys2Proof.Machine
end

