-- ==== Sys2Proof/Machine/Reference.lean ====
section
/-! DEFINITION. A second, separately written MD5 of one block, which `compress` is compared with
(`40_md5_compressor.md` R133). No transition uses it. The step table is R132's, as data; the shape of the
operations, the other forms of the functions, and the padding are RFC 1321's and general knowledge: PRESUMED
(log 17). -/

namespace Sys2Proof.Machine

/-- The function named in a row of R132. -/
inductive StepFunctionName where
  | f
  | g
  | h
  | i
deriving DecidableEq, Repr

/-- One row of R132: the function, the index of the block word, the rotation, the constant. -/
structure StepRow where
  fn    : StepFunctionName
  index : Nat
  shift : Nat
  const : Word
deriving DecidableEq, Repr

/-- Rows 0 to 15 of R132. -/
def stepTable1 : List StepRow :=
  [⟨.f, 0, 7, 0xD76AA478#32⟩, ⟨.f, 1, 12, 0xE8C7B756#32⟩,
   ⟨.f, 2, 17, 0x242070DB#32⟩, ⟨.f, 3, 22, 0xC1BDCEEE#32⟩,
   ⟨.f, 4, 7, 0xF57C0FAF#32⟩, ⟨.f, 5, 12, 0x4787C62A#32⟩,
   ⟨.f, 6, 17, 0xA8304613#32⟩, ⟨.f, 7, 22, 0xFD469501#32⟩,
   ⟨.f, 8, 7, 0x698098D8#32⟩, ⟨.f, 9, 12, 0x8B44F7AF#32⟩,
   ⟨.f, 10, 17, 0xFFFF5BB1#32⟩, ⟨.f, 11, 22, 0x895CD7BE#32⟩,
   ⟨.f, 12, 7, 0x6B901122#32⟩, ⟨.f, 13, 12, 0xFD987193#32⟩,
   ⟨.f, 14, 17, 0xA679438E#32⟩, ⟨.f, 15, 22, 0x49B40821#32⟩]

/-- Rows 16 to 31 of R132. -/
def stepTable2 : List StepRow :=
  [⟨.g, 1, 5, 0xF61E2562#32⟩, ⟨.g, 6, 9, 0xC040B340#32⟩,
   ⟨.g, 11, 14, 0x265E5A51#32⟩, ⟨.g, 0, 20, 0xE9B6C7AA#32⟩,
   ⟨.g, 5, 5, 0xD62F105D#32⟩, ⟨.g, 10, 9, 0x02441453#32⟩,
   ⟨.g, 15, 14, 0xD8A1E681#32⟩, ⟨.g, 4, 20, 0xE7D3FBC8#32⟩,
   ⟨.g, 9, 5, 0x21E1CDE6#32⟩, ⟨.g, 14, 9, 0xC33707D6#32⟩,
   ⟨.g, 3, 14, 0xF4D50D87#32⟩, ⟨.g, 8, 20, 0x455A14ED#32⟩,
   ⟨.g, 13, 5, 0xA9E3E905#32⟩, ⟨.g, 2, 9, 0xFCEFA3F8#32⟩,
   ⟨.g, 7, 14, 0x676F02D9#32⟩, ⟨.g, 12, 20, 0x8D2A4C8A#32⟩]

/-- Rows 32 to 47 of R132. -/
def stepTable3 : List StepRow :=
  [⟨.h, 5, 4, 0xFFFA3942#32⟩, ⟨.h, 8, 11, 0x8771F681#32⟩,
   ⟨.h, 11, 16, 0x6D9D6122#32⟩, ⟨.h, 14, 23, 0xFDE5380C#32⟩,
   ⟨.h, 1, 4, 0xA4BEEA44#32⟩, ⟨.h, 4, 11, 0x4BDECFA9#32⟩,
   ⟨.h, 7, 16, 0xF6BB4B60#32⟩, ⟨.h, 10, 23, 0xBEBFBC70#32⟩,
   ⟨.h, 13, 4, 0x289B7EC6#32⟩, ⟨.h, 0, 11, 0xEAA127FA#32⟩,
   ⟨.h, 3, 16, 0xD4EF3085#32⟩, ⟨.h, 6, 23, 0x04881D05#32⟩,
   ⟨.h, 9, 4, 0xD9D4D039#32⟩, ⟨.h, 12, 11, 0xE6DB99E5#32⟩,
   ⟨.h, 15, 16, 0x1FA27CF8#32⟩, ⟨.h, 2, 23, 0xC4AC5665#32⟩]

/-- Rows 48 to 63 of R132. -/
def stepTable4 : List StepRow :=
  [⟨.i, 0, 6, 0xF4292244#32⟩, ⟨.i, 7, 10, 0x432AFF97#32⟩,
   ⟨.i, 14, 15, 0xAB9423A7#32⟩, ⟨.i, 5, 21, 0xFC93A039#32⟩,
   ⟨.i, 12, 6, 0x655B59C3#32⟩, ⟨.i, 3, 10, 0x8F0CCC92#32⟩,
   ⟨.i, 10, 15, 0xFFEFF47D#32⟩, ⟨.i, 1, 21, 0x85845DD1#32⟩,
   ⟨.i, 8, 6, 0x6FA87E4F#32⟩, ⟨.i, 15, 10, 0xFE2CE6E0#32⟩,
   ⟨.i, 6, 15, 0xA3014314#32⟩, ⟨.i, 13, 21, 0x4E0811A1#32⟩,
   ⟨.i, 4, 6, 0xF7537E82#32⟩, ⟨.i, 11, 10, 0xBD3AF235#32⟩,
   ⟨.i, 2, 15, 0x2AD7D2BB#32⟩, ⟨.i, 9, 21, 0xEB86D391#32⟩]

/-- The 64 steps in one table, as data (R132). -/
def stepTable : List StepRow :=
  stepTable1 ++ stepTable2 ++ stepTable3 ++ stepTable4

/-- The four functions, F and G in their selecting form. -/
def referenceFunction (fn : StepFunctionName) (x y z : Word) : Word :=
  match fn with
  | .f => z ^^^ (x &&& (y ^^^ z))
  | .g => y ^^^ (z &&& (x ^^^ y))
  | .h => x ^^^ (y ^^^ z)
  | .i => y ^^^ ~~~(~~~x &&& z)

/-- One operation of RFC 1321, `a = b + ((a + f(b,c,d) + X[k] + T[i]) <<< s)`: the new value of the one word
it changes. -/
def referenceOp (m : List Word) (r : StepRow) (a b c d : Word) : Word :=
  b + (a + referenceFunction r.fn b c d + m.getD r.index 0#32 + r.const).rotateLeft r.shift

/-- The operations in fours, on ABCD, DABC, CDAB, BCDA, each word changed in its place. -/
def referenceOps (m : List Word) : List StepRow → Digest → Digest
  | r1 :: r2 :: r3 :: r4 :: rest, w =>
    let a := referenceOp m r1 w.a w.b w.c w.d
    let d := referenceOp m r2 w.d a w.b w.c
    let c := referenceOp m r3 w.c d a w.b
    let b := referenceOp m r4 w.b c d a
    referenceOps m rest { a := a, b := b, c := c, d := d }
  | _, w => w

/-- MD5 of one block: the 64 operations from the initial words, and the initial words added. -/
def referenceBlock (m : List Word) : Digest :=
  let w := referenceOps m stepTable
    { a := 0x67452301#32, b := 0xEFCDAB89#32, c := 0x98BADCFE#32, d := 0x10325476#32 }
  { a := w.a + 0x67452301#32, b := w.b + 0xEFCDAB89#32, c := w.c + 0x98BADCFE#32, d := w.d + 0x10325476#32 }

/-- The 64 block bytes of a message of at most 55 bytes (`95_test_vectors.md` V72; RFC 1321): the message,
the padding byte 0x80, zero bytes, and the bit length in 8 bytes, least significant first. PRESUMED (log 17). -/
def paddedBytes (msg : List Byte) : List Byte :=
  msg ++ [0x80#8] ++ List.replicate (55 - msg.length) 0x00#8 ++
    wordBytes (BitVec.ofNat 32 (8 * msg.length)) ++ wordBytes 0#32

/-- Byte-oriented MD5 of a message that fits one block, the reference of R133. PRESUMED (log 17). -/
def md5OneBlock (msg : List Byte) : List Byte :=
  digestBytes (referenceBlock (wordsOfBytes (paddedBytes msg)))

end Sys2Proof.Machine
end

