-- ==== Sys2Proof/Safety.lean ====
section
/-! DEFINITION. What claims are stated in: the invariants of the spec, and the launch premise of CHAIN. -/

namespace Sys2Proof.Machine

/-- The STATUS invariants (`10_state.md` R28): at most one of BUSY, DONE, ERR is 1; `ERRCODE != 0` if and
only if `ERR = 1`; ERRCODE is one of 0, 1, 2, 3. -/
def StatusInv (st : Status) : Prop :=
  ¬ (st.busy = true ∧ st.done = true) ∧ ¬ (st.busy = true ∧ st.err = true) ∧
  ¬ (st.done = true ∧ st.err = true) ∧
  (st.errcode ≠ 0#4 ↔ st.err = true) ∧ st.errcode ≤ 3#4

/-- Exactly one of BUSY, DONE, ERR is 1 (`10_state.md` R28, `60_exceptions.md` R209). -/
def OneOfBusyDoneErr (st : Status) : Prop :=
  (st.busy = true ∧ st.done = false ∧ st.err = false) ∨
  (st.busy = false ∧ st.done = true ∧ st.err = false) ∨
  (st.busy = false ∧ st.done = false ∧ st.err = true)

/-- What holds between the steps of ITERATE (`43_single_result_iterator.md` R172): its operand was in
range, `IDX <= ROUNDS`, and CUR is the seed iterated IDX times. -/
def IterateInv (s : State) : Prop :=
  s.rounds ≤ s.params.maxRounds ∧ s.idx ≤ s.rounds ∧
  pack s.cur = otpIterate (pack s.seed) s.idx.toNat

/-- What holds between the steps of CHAIN (`44_chain_generator.md` R187): its operands passed the checks,
`IDX <= ROUNDS`, CUR is the seed iterated `min(IDX, ROUNDS - 1)` times (the subtraction is on natural
numbers, so it is 0 for ROUNDS = 0), and elements `0 .. IDX-1` hold the chain. -/
def ChainInv (s : State) : Prop :=
  s.rounds ≤ s.params.maxRounds ∧ s.rounds ≤ s.capacity ∧ s.idx ≤ s.rounds ∧
  pack s.cur = otpIterate (pack s.seed) (min s.idx.toNat (s.rounds.toNat - 1)) ∧
  ∀ i, i < s.idx.toNat → readElement s.mem i = some (otpIterate (pack s.seed) i)

/-- What holds while a command is in progress, by the opcode latched in OPL (`10_state.md` R30, R31). -/
def RunningInv (s : State) : Prop :=
  (s.opl = Instr.opcode .compress ∧ s.idx = 0#32) ∨
  (s.opl = Instr.opcode .fold ∧ s.idx = 0#32) ∨
  (s.opl = Instr.opcode .round ∧ s.idx = 0#32) ∨
  (s.opl = Instr.opcode .iterate ∧ IterateInv s) ∨
  (s.opl = Instr.opcode .chain ∧ ChainInv s)

/-- The invariant of the machine: the STATUS invariants, a legal command while busy with its loop
invariant, and the canonical form of the OUT space. -/
structure Inv (s : State) : Prop where
  status  : StatusInv s.status
  running : s.status.busy = true → RunningInv s
  memory  : Memory.wf s.mem = true

/-- The launch premise of every claim about CHAIN (`70_reset_and_hazards.md` R236, `60_exceptions.md` R222):
the platform's buffer has at least CAPACITY elements. -/
def BufferPremise (s : State) : Prop :=
  s.capacity.toNat ≤ s.params.outSize

/-- Two states that differ at most in data: SEED, CUR, DIG, the bytes held by the OUT space, and the values
the host has read. They agree on all that chooses what happens next (`70_reset_and_hazards.md` R244). -/
structure SameShape (s s' : State) : Prop where
  rounds   : s.rounds = s'.rounds
  capacity : s.capacity = s'.capacity
  status   : s.status = s'.status
  idx      : s.idx = s'.idx
  opl      : s.opl = s'.opl
  params   : s.params = s'.params
  outStalled : s.outStalled = s'.outStalled
  events   : s.events = s'.events
  draws    : s.draws = s'.draws
  /-- The same bytes of the OUT space have been written. -/
  written  : s.mem.map Prod.fst = s'.mem.map Prod.fst

/-- Two outcomes of the same shape: next states of the same shape, or the same stop. -/
def SameShapeOutcome : Result → Result → Prop
  | .next t, .next t' => SameShape t t'
  | .fault f, .fault f' => f = f'
  | .refused r, .refused r' => r = r'
  | .next _, .fault _ => False
  | .next _, .refused _ => False
  | .fault _, .next _ => False
  | .fault _, .refused _ => False
  | .refused _, .next _ => False
  | .refused _, .fault _ => False

end Sys2Proof.Machine
end

