-- ==== Sys2Proof/Certificates/Slice0/Obligations.lean ====
section
/-! DEFINITION. The statements for the provers. Each docstring names the rule of `spec/` it formalises. -/

open Sys2Proof Sys2Proof.Machine

/-! ### Decoding -/

/-- The words of `30_encoding.md` R94 written out, and the illegal words V85 to V90 of `95_test_vectors.md`.
-/
def Obligations.DecodedWordsAreTheTable : Prop :=
  decode 0x00000001#32 = .instr .compress ∧ decode 0x00000002#32 = .instr .fold ∧
  decode 0x00000003#32 = .instr .round ∧ decode 0x00000004#32 = .instr .iterate ∧
  decode 0x00000005#32 = .instr .chain ∧
  decode 0x00000000#32 = .reject (.reservedOpcode 0#4) ∧
  decode 0x00000006#32 = .reject (.reservedOpcode 6#4) ∧
  decode 0x0000000F#32 = .reject (.reservedOpcode 15#4) ∧
  decode 0x00000014#32 = .reject (.zeroFieldSet 1#28) ∧
  decode 0x80000005#32 = .reject (.zeroFieldSet 0x8000000#28) ∧
  decode 0xFFFFFFFF#32 = .reject (.zeroFieldSet 0xFFFFFFF#28)

/-- Decoding the encoding of a command gives it back, and its word is well formed (R91, R94). -/
def Obligations.DecodeOfEncodeIsTheCommand : Prop :=
  ∀ i : Instr, decode (encode i) = .instr i ∧ (fieldsOf (encode i)).wf = true

/-- Every 32-bit word either selects exactly one command or is rejected, as R93 says: with a nonzero bit
in 31:4 it is rejected; else it is the command with OP = w[3:0] for OP 1 to 5 and rejected otherwise. And
a word that selects a command is that command's encoding (R94). -/
def Obligations.DecoderSelectsExactlyTheFiveWords : Prop :=
  ∀ w : Word,
    (w.extractLsb' 4 28 ≠ 0#28 → ∃ why, decode w = .reject why) ∧
    (w.extractLsb' 4 28 = 0#28 →
      (w.extractLsb' 0 4 = 1#4 → decode w = .instr .compress) ∧
      (w.extractLsb' 0 4 = 2#4 → decode w = .instr .fold) ∧
      (w.extractLsb' 0 4 = 3#4 → decode w = .instr .round) ∧
      (w.extractLsb' 0 4 = 4#4 → decode w = .instr .iterate) ∧
      (w.extractLsb' 0 4 = 5#4 → decode w = .instr .chain) ∧
      (w.extractLsb' 0 4 = 0#4 ∨ 5#4 < w.extractLsb' 0 4 → ∃ why, decode w = .reject why)) ∧
    ∀ i, decode w = .instr i ↔ w = encode i

/-! ### A step runs the decoded command -/

/-- A step runs the decoded command: the word a host writes to CMD of an idle block, and the opcode latched
in OPL while the block is busy and the core has its turn (`20_memory.md` R62, `10_state.md` R31). What the
step adds around `exec` is taking the event off the queue; a WAIT stays there while BUSY. The queue is the
model's own (log 2). -/
def Obligations.StepRunsTheDecodedCommand : Prop :=
  (∀ (s : State) (rest : List Event) (w : Word) (i : Instr),
    s.status.busy = false → s.events = .hostWrite 0x00 4 w :: rest → decode w = .instr i →
    step s = exec i { s with events := rest }) ∧
  (∀ (s : State) (i : Instr),
    s.status.busy = true → s.events = [] → Instr.ofOpcode s.opl = some i → step s = exec i s) ∧
  (∀ (s : State) (rest : List Event) (i : Instr),
    s.status.busy = true → s.events = .core :: rest → Instr.ofOpcode s.opl = some i →
    step s = exec i { s with events := rest }) ∧
  (∀ (s : State) (rest : List Event) (i : Instr),
    s.status.busy = true → s.events = .wait :: rest → Instr.ofOpcode s.opl = some i →
    step s = exec i s)

/-! ### The five commands: acceptance and steps -/

/-- COMPRESS, acceptance and step (`40_md5_compressor.md` R126). Everything not named is unchanged. -/
def Obligations.CompressAcceptsThenWritesDigest : Prop :=
  encode .compress = 0x00000001#32 ∧
  (∀ s : State, s.status.busy = false →
    exec .compress s = .next { s with
      status := { busy := true, done := false, err := false, wrlost := s.status.wrlost, errcode := 0#4 }
      opl := 1#4
      idx := 0#32 }) ∧
  (∀ s : State, s.status.busy = true →
    exec .compress s = .next { s with
      dig := compress s.seed
      status := { s.status with busy := false, done := true } })

/-- FOLD, acceptance and step (`41_folder.md` R151). Everything not named is unchanged. -/
def Obligations.FoldAcceptsThenWritesFoldedDigest : Prop :=
  encode .fold = 0x00000002#32 ∧
  (∀ s : State, s.status.busy = false →
    exec .fold s = .next { s with
      status := { busy := true, done := false, err := false, wrlost := s.status.wrlost, errcode := 0#4 }
      opl := 2#4
      idx := 0#32 }) ∧
  (∀ s : State, s.status.busy = true →
    exec .fold s = .next { s with
      cur := { lo := s.dig.a ^^^ s.dig.c, hi := s.dig.b ^^^ s.dig.d }
      status := { s.status with busy := false, done := true } })

/-- ROUND, acceptance and step (`42_round_function.md` R161). Everything not named is unchanged. -/
def Obligations.RoundAcceptsThenWritesDigestAndFold : Prop :=
  encode .round = 0x00000003#32 ∧
  (∀ s : State, s.status.busy = false →
    exec .round s = .next { s with
      status := { busy := true, done := false, err := false, wrlost := s.status.wrlost, errcode := 0#4 }
      opl := 3#4
      idx := 0#32 }) ∧
  (∀ s : State, s.status.busy = true →
    exec .round s = .next { s with
      dig := compress s.seed
      cur := { lo := (compress s.seed).a ^^^ (compress s.seed).c,
               hi := (compress s.seed).b ^^^ (compress s.seed).d }
      status := { s.status with busy := false, done := true } })

/-- ITERATE, acceptance (`43_single_result_iterator.md` R171): with ROUNDS above MAX_ROUNDS only STATUS
changes, by the fault ROUNDS_RANGE; else the command is accepted and CUR is loaded from SEED. Once accepted
it cannot fault: while busy its step answers a next state that leaves ERR and ERRCODE alone. -/
def Obligations.IterateAcceptanceChecksRoundsAndLoadsSeed : Prop :=
  encode .iterate = 0x00000004#32 ∧
  (∀ s : State, s.status.busy = false →
    (s.params.maxRounds < s.rounds →
      exec .iterate s = .next { s with
        status := { s.status with done := false, err := true, errcode := 2#4 } }) ∧
    (s.rounds ≤ s.params.maxRounds →
      exec .iterate s = .next { s with
        status := { busy := true, done := false, err := false, wrlost := s.status.wrlost, errcode := 0#4 }
        opl := 4#4
        idx := 0#32
        cur := s.seed })) ∧
  (∀ s : State, s.status.busy = true → ∃ t, exec .iterate s = .next t ∧
    t.status.err = s.status.err ∧ t.status.errcode = s.status.errcode)

/-- ITERATE, step (`43_single_result_iterator.md` R172): a round step while IDX < ROUNDS, else the completing
step; the invariant between steps is established by an acceptance and kept by both. -/
def Obligations.IterateStepIsOneRoundOrCompletes : Prop :=
  (∀ s : State, s.status.busy = false → s.rounds ≤ s.params.maxRounds →
    ∃ t, exec .iterate s = .next t ∧ IterateInv t) ∧
  ∀ s : State, s.status.busy = true →
    (s.idx < s.rounds →
      exec .iterate s = .next { s with
        dig := compress s.cur
        cur := { lo := (compress s.cur).a ^^^ (compress s.cur).c,
                 hi := (compress s.cur).b ^^^ (compress s.cur).d }
        idx := s.idx + 1#32 }) ∧
    (s.rounds ≤ s.idx →
      exec .iterate s = .next { s with status := { s.status with busy := false, done := true } }) ∧
    (IterateInv s → ∃ t, exec .iterate s = .next t ∧ IterateInv t)

/-- CHAIN, acceptance (`44_chain_generator.md` R186): ROUNDS above MAX_ROUNDS is the fault ROUNDS_RANGE,
else CAPACITY below ROUNDS is the fault CAPACITY, each changing STATUS only; else the command is accepted
and CUR is loaded from SEED. The comparisons are unsigned. Once accepted it cannot fault: while busy its step
is no fault and leaves ERR and ERRCODE alone. -/
def Obligations.ChainAcceptanceChecksRoundsThenCapacity : Prop :=
  encode .chain = 0x00000005#32 ∧
  (∀ s : State, s.status.busy = false →
    (s.params.maxRounds < s.rounds →
      exec .chain s = .next { s with
        status := { s.status with done := false, err := true, errcode := 2#4 } }) ∧
    (s.rounds ≤ s.params.maxRounds → s.capacity < s.rounds →
      exec .chain s = .next { s with
        status := { s.status with done := false, err := true, errcode := 3#4 } }) ∧
    (s.rounds ≤ s.params.maxRounds → s.rounds ≤ s.capacity →
      exec .chain s = .next { s with
        status := { busy := true, done := false, err := false, wrlost := s.status.wrlost, errcode := 0#4 }
        opl := 5#4
        idx := 0#32
        cur := s.seed })) ∧
  (∀ s : State, s.status.busy = true →
    (∀ f, exec .chain s ≠ .fault f) ∧
    ∀ t, exec .chain s = .next t →
      t.status.err = s.status.err ∧ t.status.errcode = s.status.errcode)

/-- CHAIN, step (`44_chain_generator.md` R187), for a buffer that has the element (the launch premise of
R236) and a port that performs the `OutWrite` (R247; a stalled one is in StalledOutputPortHangsChain): an
element step that advances CUR unless the element is the last, the last element step, and the
completing step; the invariant between steps is established by an acceptance and kept by all of them. -/
def Obligations.ChainStepRecordsThenAdvances : Prop :=
  (∀ s : State, s.status.busy = false → s.rounds ≤ s.params.maxRounds → s.rounds ≤ s.capacity →
    ∃ t, exec .chain s = .next t ∧ ChainInv t) ∧
  ∀ s : State, s.status.busy = true →
    (s.idx < s.rounds → s.outStalled = false → s.idx.toNat < s.params.outSize → s.idx + 1#32 < s.rounds →
      exec .chain s = .next { s with
        mem := outWrite s.mem s.idx (s.cur.hi ++ s.cur.lo)
        dig := compress s.cur
        cur := { lo := (compress s.cur).a ^^^ (compress s.cur).c,
                 hi := (compress s.cur).b ^^^ (compress s.cur).d }
        idx := s.idx + 1#32 }) ∧
    (s.idx < s.rounds → s.outStalled = false → s.idx.toNat < s.params.outSize → s.rounds ≤ s.idx + 1#32 →
      exec .chain s = .next { s with
        mem := outWrite s.mem s.idx (s.cur.hi ++ s.cur.lo)
        idx := s.idx + 1#32 }) ∧
    (s.rounds ≤ s.idx →
      exec .chain s = .next { s with status := { s.status with busy := false, done := true } }) ∧
    (ChainInv s → BufferPremise s → ∃ t, exec .chain s = .next t ∧ ChainInv t)

/-- A command stops only in an element step of CHAIN whose element the platform's real buffer does not have, by
name, and that is only possible when the launch premise of CHAIN is broken (`60_exceptions.md` R222, U7). The
real size of the buffer is a field of the model (log 7). The stops of a whole step are in
StepStopsOnlyAtAnUndefinedAccess. -/
def Obligations.ChainStopsOnlyOutsideThePlatformBuffer : Prop :=
  (∀ s : State, s.status.busy = true → s.idx < s.rounds → s.outStalled = false →
    s.params.outSize ≤ s.idx.toNat → exec .chain s = .refused (.outsideBuffer s.idx)) ∧
  (∀ (i : Instr) (s : State), Inv s → BufferPremise s → Instr.ofOpcode s.opl = some i →
    s.status.busy = true → ∃ t, exec i s = .next t) ∧
  (∀ (i : Instr) (s : State), s.status.busy = false → ∃ t, exec i s = .next t)

/-- The frame of the OUT space (`10_state.md` R38): COMPRESS, FOLD, ROUND and ITERATE leave every byte as it
was, and so does CHAIN at acceptance, at completion and while its output port is stalled (R247); an element
step of CHAIN leaves every byte outside the eight of element IDX as it was, and that element then reads as
`{CUR_HI, CUR_LO}`. -/
def Obligations.OnlyAnElementStepOfChainWritesOut : Prop :=
  (∀ (i : Instr) (s t : State), i = .compress ∨ i = .fold ∨ i = .round ∨ i = .iterate →
    exec i s = .next t → ∀ addr, readByte t.mem addr = readByte s.mem addr) ∧
  (∀ s t : State, exec .chain s = .next t → (s.status.busy = false ∨ s.rounds ≤ s.idx ∨ s.outStalled = true) →
    ∀ addr, readByte t.mem addr = readByte s.mem addr) ∧
  (∀ s t : State, exec .chain s = .next t → s.status.busy = true → s.idx < s.rounds →
    s.outStalled = false →
    readElement t.mem s.idx.toNat = some (s.cur.hi ++ s.cur.lo) ∧
    ∀ addr, addr < elementAddr s.idx ∨ elementAddr s.idx + 8 ≤ addr →
      readByte t.mem addr = readByte s.mem addr)

/-! ### Whole commands, as runs of the machine -/

/-- COMPRESS, whole command (`40_md5_compressor.md` R127, which the spec marks as derived from R126), with its
example. -/
def Obligations.CompressWholeCommand : Prop :=
  (∀ (s : State) (rest : List Event), s.status.busy = false →
    s.events = lineCmd .compress :: .wait :: rest →
    core.run 3 s = .next { s with
      dig := compress s.seed
      status := { busy := false, done := true, err := false, wrlost := s.status.wrlost, errcode := 0#4 }
      idx := 0#32
      opl := 1#4
      events := rest }) ∧
  compress { lo := 0#32, hi := 0#32 } =
    { a := 0x2B36EA7D#32, b := 0x008EAC3F#32, c := 0x52496A95#32, d := 0x74F4D4A3#32 }

/-- FOLD, whole command (`41_folder.md` R152, which the spec marks as derived from R151), with its example. -/
def Obligations.FoldWholeCommand : Prop :=
  (∀ (s : State) (rest : List Event), s.status.busy = false →
    s.events = lineCmd .fold :: .wait :: rest →
    core.run 3 s = .next { s with
      cur := { lo := s.dig.a ^^^ s.dig.c, hi := s.dig.b ^^^ s.dig.d }
      status := { busy := false, done := true, err := false, wrlost := s.status.wrlost, errcode := 0#4 }
      idx := 0#32
      opl := 2#4
      events := rest }) ∧
  foldDigest { a := 0x2B36EA7D#32, b := 0x008EAC3F#32, c := 0x52496A95#32, d := 0x74F4D4A3#32 } =
    { lo := 0x797F80E8#32, hi := 0x747A789C#32 }

/-- ROUND, whole command (`42_round_function.md` R162, which the spec marks as derived from R161), with its
example. -/
def Obligations.RoundWholeCommand : Prop :=
  (∀ (s : State) (rest : List Event), s.status.busy = false →
    s.events = lineCmd .round :: .wait :: rest →
    core.run 3 s = .next { s with
      dig := compress s.seed
      cur := foldDigest (compress s.seed)
      status := { busy := false, done := true, err := false, wrlost := s.status.wrlost, errcode := 0#4 }
      idx := 0#32
      opl := 3#4
      events := rest }) ∧
  otpRound { lo := 0#32, hi := 0#32 } = { lo := 0x797F80E8#32, hi := 0x747A789C#32 }

/-- ITERATE, whole command (`43_single_result_iterator.md` R173, which the spec marks as derived from R171 and
R172): after its acceptance, ROUNDS round steps, the completing step and the end of the WAIT, for every seed
and every ROUNDS up to MAX_ROUNDS; and the example of the rule. That the run is these steps is the model's form
of the queue and of WAIT (log 2, log 3). -/
def Obligations.IterateWholeCommand : Prop :=
  (∀ (s : State) (rest : List Event), s.status.busy = false →
    s.events = lineCmd .iterate :: .wait :: rest → s.rounds ≤ s.params.maxRounds →
    core.run (s.rounds.toNat + 3) s = .next { s with
      cur := unpack (otpIterate (pack s.seed) s.rounds.toNat)
      dig := if s.rounds = 0#32 then s.dig
             else compress (unpack (otpIterate (pack s.seed) (s.rounds.toNat - 1)))
      status := { busy := false, done := true, err := false, wrlost := s.status.wrlost, errcode := 0#4 }
      idx := s.rounds
      opl := 4#4
      events := rest }) ∧
  otpIterate 0x0000000000000000#64 5 = 0xB27971DE14C9E578#64

/-- CHAIN, whole command (`44_chain_generator.md` R188, which the spec marks as derived from R186 and R187),
under the launch premise of R236 and with a port that performs each `OutWrite` (R247): after its acceptance,
ROUNDS element steps, the completing step and the end of the WAIT. The elements below ROUNDS are the chain,
every byte from element ROUNDS on is as it was, and the registers are as the rule says. After its acceptance
and `k` element steps exactly the elements below `k` are written, so the writes are in the order of the
indices. And the example of the rule. That the run is these steps is the model's form of the queue and of
WAIT (log 2, log 3). -/
def Obligations.ChainWholeCommand : Prop :=
  (∀ (s : State) (rest : List Event), s.status.busy = false →
    s.events = lineCmd .chain :: .wait :: rest → s.rounds ≤ s.params.maxRounds →
    s.rounds ≤ s.capacity → BufferPremise s → s.outStalled = false →
    (∃ m : Memory,
      core.run (s.rounds.toNat + 3) s = .next { s with
        mem := m
        cur := unpack (otpIterate (pack s.seed) (s.rounds.toNat - 1))
        dig := if s.rounds ≤ 1#32 then s.dig
               else compress (unpack (otpIterate (pack s.seed) (s.rounds.toNat - 2)))
        status := { busy := false, done := true, err := false, wrlost := s.status.wrlost, errcode := 0#4 }
        idx := s.rounds
        opl := 5#4
        events := rest } ∧
      (∀ i, i < s.rounds.toNat → readElement m i = some (otpIterate (pack s.seed) i)) ∧
      (∀ addr, 8 * s.rounds.toNat ≤ addr → readByte m addr = readByte s.mem addr)) ∧
    (∀ k, k ≤ s.rounds.toNat → ∃ t,
      core.run (k + 1) s = .next t ∧ t.status.busy = true ∧ t.idx.toNat = k ∧
      (∀ i, i < k → readElement t.mem i = some (otpIterate (pack s.seed) i)) ∧
      (∀ addr, 8 * k ≤ addr → readByte t.mem addr = readByte s.mem addr))) ∧
  otpChain 0x0000000000000000#64 5 =
    [0x0000000000000000#64, 0x747A789C797F80E8#64, 0x477F28C589C6F6CB#64, 0xEDE998565FCEF589#64,
     0xFAC1E8DB4454933A#64]

/-- ITERATE takes exactly ROUNDS + 1 `CoreStep`s whatever the seed is (`43_single_result_iterator.md` R178,
which the spec marks as derived from R172): after the command write and `k` of the core's turns the block is
still busy when `k <= ROUNDS`, and after ROUNDS + 1 of them it has completed. -/
def Obligations.IterateCompletesAfterRoundsPlusOneSteps : Prop :=
  ∀ s : State, s.status.busy = false → s.events = [lineCmd .iterate] → s.rounds ≤ s.params.maxRounds →
    (∀ k, k ≤ s.rounds.toNat → ∃ t, core.run (k + 1) s = .next t ∧ t.status.busy = true) ∧
    (∃ t, core.run (s.rounds.toNat + 2) s = .next t ∧ t.status.busy = false ∧ t.status.done = true)

/-- COMPRESS then FOLD, ITERATE with ROUNDS = 1, and element 1 of a CHAIN of 2 all agree with ROUND
(`42_round_function.md` R164, which the spec marks as derived). -/
def Obligations.CommandsAgreeWithRound : Prop :=
  ∀ (s : State) (rest : List Event), s.status.busy = false →
    ∃ r, core.run 3 { s with events := lineCmd .round :: .wait :: rest } = .next r ∧
      (∃ t, core.run 6 { s with
          events := lineCmd .compress :: .wait :: lineCmd .fold :: .wait :: rest } = .next t ∧
        t.dig = r.dig ∧ t.cur = r.cur) ∧
      (1#32 ≤ s.params.maxRounds →
        ∃ t, core.run 5 { s with
            events := lineWr .rounds 1#32 :: lineCmd .iterate :: .wait :: rest } = .next t ∧
          t.dig = r.dig ∧ t.cur = r.cur ∧ t.idx = 1#32 ∧ r.idx = 0#32) ∧
      (2#32 ≤ s.params.maxRounds → 2 ≤ s.params.outSize → s.outStalled = false →
        ∃ t, core.run 7 { s with
            events := lineWr .rounds 2#32 :: lineWr .capacity 2#32 :: lineCmd .chain :: .wait :: rest } =
            .next t ∧
          readElement t.mem 1 = some (pack r.cur))

/-- The properties of `iterate` (`43_single_result_iterator.md` R175, which the spec marks as derived from
R170 and R173): identity, composition, composition on the machine, and determinism on the machine whatever
the rest of the state. Composition: ITERATE with ROUNDS = n, the result copied to SEED, ITERATE with ROUNDS
= m leaves the RES of ITERATE with the first seed and ROUNDS = n + m. -/
def Obligations.IterateComposes : Prop :=
  (∀ v : BitVec 64, otpIterate v 0 = v) ∧
  (∀ (v : BitVec 64) (n m : Nat), otpIterate v (n + m) = otpIterate (otpIterate v n) m) ∧
  (∀ (s : State) (n m : Word) (r : OtpPair) (rest : List Event), s.status.busy = false →
    n.toNat + m.toNat ≤ s.params.maxRounds.toNat →
    r = unpack (otpIterate (pack s.seed) n.toNat) →
    ∃ t u v,
      core.run (n.toNat + 4) { s with
        events := lineWr .rounds n :: lineCmd .iterate :: .wait ::
          lineWr .seedLo r.lo :: lineWr .seedHi r.hi :: lineWr .rounds m ::
          lineCmd .iterate :: .wait :: rest } = .next t ∧
      t.cur = r ∧
      core.run (m.toNat + 6) t = .next u ∧
      core.run ((n + m).toNat + 4) { s with
        events := lineWr .rounds (n + m) :: lineCmd .iterate :: .wait :: rest } = .next v ∧
      u.cur = v.cur) ∧
  (∀ (s s' : State) (rest rest' : List Event), s.status.busy = false → s'.status.busy = false →
    s.seed = s'.seed → s.rounds = s'.rounds → s.rounds ≤ s.params.maxRounds →
    s'.rounds ≤ s'.params.maxRounds →
    ∃ t t',
      core.run (s.rounds.toNat + 3) { s with events := lineCmd .iterate :: .wait :: rest } = .next t ∧
      core.run (s.rounds.toNat + 3) { s' with events := lineCmd .iterate :: .wait :: rest' } = .next t' ∧
      t.cur = t'.cur)

/-- Chain and single-result consistency (`44_chain_generator.md` R193, which the spec marks as derived from
R173 and R188): the chain function gives a list of n elements, of which element i is the i-th iterate, and
on the machine element i of the OUT space after a CHAIN is the RES that ITERATE with the same seed and
ROUNDS = i leaves. -/
def Obligations.ChainElementsAreIterates : Prop :=
  (∀ (v : BitVec 64) (n : Nat), (otpChain v n).length = n ∧
    ∀ i, i < n → (otpChain v n)[i]? = some (otpIterate v i)) ∧
  (∀ (s : State) (rest : List Event) (i : Word), s.status.busy = false →
    s.rounds ≤ s.params.maxRounds → s.rounds ≤ s.capacity → BufferPremise s → s.outStalled = false →
    i < s.rounds →
    ∃ t u,
      core.run (s.rounds.toNat + 3) { s with events := lineCmd .chain :: .wait :: rest } = .next t ∧
      core.run (i.toNat + 4) { s with
        events := lineWr .rounds i :: lineCmd .iterate :: .wait :: rest } = .next u ∧
      readElement t.mem i.toNat = some (pack u.cur))

/-- The first entry point `computeIterate(seed, rounds)` (`30_encoding.md` R105), run from any idle state:
within range the three reads at its end return DONE (with WRLOST as it was) and the two halves of
`iterate(seed, rounds)`; out of range STATUS reads ROUNDS_RANGE. The list of reads is the model's (log 4), and
so is that no poll of the WAIT is in it (log 3). -/
def Obligations.ComputeIterateReturnsTheIterate : Prop :=
  ∀ (s : State) (seed : BitVec 64) (rounds : Word) (rest : List Event), s.status.busy = false →
    s.events = computeIterate seed rounds ++ rest →
    (rounds ≤ s.params.maxRounds → ∃ t,
      core.run (rounds.toNat + 9) s = .next t ∧ t.events = rest ∧
      t.reads = (unpack (otpIterate seed rounds.toNat)).hi :: (unpack (otpIterate seed rounds.toNat)).lo ::
        (if s.status.wrlost then 0x0A#32 else 0x02#32) :: s.reads) ∧
    (s.params.maxRounds < rounds → ∃ t,
      core.run 8 s = .next t ∧ t.events = rest ∧
      t.reads = s.cur.hi :: s.cur.lo :: (if s.status.wrlost then 0x2C#32 else 0x24#32) :: s.reads)

/-! ### The host's transitions -/

/-- A write to one of the eight operand registers while idle (`20_memory.md` R61): the register takes all
32 bits, nothing else changes. -/
def Obligations.OperandWriteStoresTheWholeWord : Prop :=
  ∀ (s : State) (v : Word) (rest : List Event), s.status.busy = false →
    step { s with events := .hostWrite 0x08 4 v :: rest } =
      .next { s with seed := { s.seed with lo := v }, events := rest } ∧
    step { s with events := .hostWrite 0x0C 4 v :: rest } =
      .next { s with seed := { s.seed with hi := v }, events := rest } ∧
    step { s with events := .hostWrite 0x10 4 v :: rest } = .next { s with rounds := v, events := rest } ∧
    step { s with events := .hostWrite 0x14 4 v :: rest } = .next { s with capacity := v, events := rest } ∧
    step { s with events := .hostWrite 0x20 4 v :: rest } =
      .next { s with dig := { s.dig with a := v }, events := rest } ∧
    step { s with events := .hostWrite 0x24 4 v :: rest } =
      .next { s with dig := { s.dig with b := v }, events := rest } ∧
    step { s with events := .hostWrite 0x28 4 v :: rest } =
      .next { s with dig := { s.dig with c := v }, events := rest } ∧
    step { s with events := .hostWrite 0x2C 4 v :: rest } =
      .next { s with dig := { s.dig with d := v }, events := rest }

/-- A write to STATUS, RES or a reserved offset while idle is ignored (`20_memory.md` R63). -/
def Obligations.WriteToReadOnlyOrReservedIsIgnored : Prop :=
  ∀ (s : State) (off : Nat) (v : Word) (rest : List Event), s.status.busy = false →
    off ∈ [0x04, 0x18, 0x1C, 0x30, 0x34, 0x38, 0x3C] →
    step { s with events := .hostWrite off 4 v :: rest } = .next { s with events := rest }

/-- A host write while busy, at every offset of the window, is dropped and sets WRLOST, and nothing else
changes (`60_exceptions.md` R204). -/
def Obligations.WriteWhileBusyIsDropped : Prop :=
  ∀ (s : State) (off : Nat) (v : Word) (rest : List Event), s.status.busy = true →
    off % 4 = 0 → off < 0x40 →
    step { s with events := .hostWrite off 4 v :: rest } =
      .next { s with status := { s.status with wrlost := true }, events := rest }

/-- `HostRead` (`20_memory.md` R65): CMD and the reserved offsets return 0, STATUS its word, SEED, ROUNDS
and CAPACITY their value at all times; RES and DIG their value while idle and a free value while busy. No
state of the block changes. The list of reads and the count of draws are the model's (log 4, log 5). -/
def Obligations.HostReadReturnsTheTable : Prop :=
  ∀ (s : State) (rest : List Event),
    (∀ off, off ∈ [0x00, 0x30, 0x34, 0x38, 0x3C] →
      step { s with events := .hostRead off 4 :: rest } =
        .next { s with events := rest, reads := 0#32 :: s.reads }) ∧
    step { s with events := .hostRead 0x04 4 :: rest } =
      .next { s with events := rest, reads := statusWord s.status :: s.reads } ∧
    (∀ off v, (off, v) ∈ [(0x08, s.seed.lo), (0x0C, s.seed.hi), (0x10, s.rounds), (0x14, s.capacity)] →
      step { s with events := .hostRead off 4 :: rest } =
        .next { s with events := rest, reads := v :: s.reads }) ∧
    (∀ off v, (off, v) ∈ [(0x18, s.cur.lo), (0x1C, s.cur.hi), (0x20, s.dig.a), (0x24, s.dig.b),
        (0x28, s.dig.c), (0x2C, s.dig.d)] →
      (s.status.busy = false →
        step { s with events := .hostRead off 4 :: rest } =
          .next { s with events := rest, reads := v :: s.reads }) ∧
      (s.status.busy = true →
        step { s with events := .hostRead off 4 :: rest } =
          .next { s with events := rest, reads := Config.freeWord s.draws :: s.reads,
                         draws := s.draws + 1 }))

/-- An access that is not 32 bits wide at a multiple of 4 inside the window is refused, and every other read
answers a next state (`20_memory.md` R70). -/
def Obligations.UndefinedRegisterAccessIsRefused : Prop :=
  ∀ (s : State) (off width : Nat) (v : Word) (rest : List Event),
    (¬ (width = 4 ∧ off % 4 = 0 ∧ off < 0x40) →
      step { s with events := .hostWrite off width v :: rest } = .refused (.regAccess off width) ∧
      step { s with events := .hostRead off width :: rest } = .refused (.regAccess off width)) ∧
    (width = 4 ∧ off % 4 = 0 ∧ off < 0x40 →
      (∃ t, step { s with events := .hostWrite off width v :: rest } = .next t) ∧
      (∃ t, step { s with events := .hostRead off width :: rest } = .next t))

/-- The layout of the STATUS word, and the values it can take under the STATUS invariants
(`30_encoding.md` R92). -/
def Obligations.StatusWordHasTheLayout : Prop :=
  (∀ st : Status,
    (statusWord st).getLsbD 0 = st.busy ∧ (statusWord st).getLsbD 1 = st.done ∧
    (statusWord st).getLsbD 2 = st.err ∧ (statusWord st).getLsbD 3 = st.wrlost ∧
    (statusWord st).extractLsb' 4 4 = st.errcode ∧ (statusWord st).extractLsb' 8 24 = 0#24) ∧
  (∀ st : Status, StatusInv st →
    (st.wrlost = false →
      statusWord st ∈ [0x00#32, 0x01#32, 0x02#32, 0x14#32, 0x24#32, 0x34#32]) ∧
    (st.wrlost = true →
      statusWord st ∈ [0x08#32, 0x09#32, 0x0A#32, 0x1C#32, 0x2C#32, 0x3C#32]))

/-! ### Faults -/

/-- An illegal command word written while idle is rejected with ILLEGAL_CMD; it starts nothing and changes
nothing but STATUS (`30_encoding.md` R95, `60_exceptions.md` R201). -/
def Obligations.IllegalWordChangesOnlyStatus : Prop :=
  ∀ (s : State) (w : Word) (rest : List Event), s.status.busy = false →
    (w.extractLsb' 4 28 ≠ 0#28 ∨ w.extractLsb' 0 4 = 0#4 ∨ 6#4 ≤ w.extractLsb' 0 4) →
    step { s with events := .hostWrite 0x00 4 w :: rest } =
      .next { s with status := { s.status with done := false, err := true, errcode := 1#4 },
                     events := rest }

/-- The three faults as the host sees them: the STATUS read after the CMD write returns 0x14, 0x24 or 0x34,
each with 0x08 added if WRLOST is set (`60_exceptions.md` R214, which the spec marks as derived), and
exactly one is reported, ILLEGAL_CMD before ROUNDS_RANGE before CAPACITY (R206). -/
def Obligations.FaultIsReadInStatusByPriority : Prop :=
  ∀ (s : State) (w : Word) (rest : List Event), s.status.busy = false →
    s.events = .hostWrite 0x00 4 w :: lineRd .status :: rest →
    (w ∉ [0x1#32, 0x2#32, 0x3#32, 0x4#32, 0x5#32] →
      core.run 2 s = .next { s with
        status := { s.status with done := false, err := true, errcode := 1#4 }
        reads := (if s.status.wrlost then 0x1C#32 else 0x14#32) :: s.reads
        events := rest }) ∧
    (w ∈ [0x4#32, 0x5#32] → s.params.maxRounds < s.rounds →
      core.run 2 s = .next { s with
        status := { s.status with done := false, err := true, errcode := 2#4 }
        reads := (if s.status.wrlost then 0x2C#32 else 0x24#32) :: s.reads
        events := rest }) ∧
    (w = 0x5#32 → s.rounds ≤ s.params.maxRounds → s.capacity < s.rounds →
      core.run 2 s = .next { s with
        status := { s.status with done := false, err := true, errcode := 3#4 }
        reads := (if s.status.wrlost then 0x3C#32 else 0x34#32) :: s.reads
        events := rest })

/-- ERR and ERRCODE stay as set until the next CMD write while idle (or Reset): any other event leaves the
STATUS of an idle block alone, an accepting CMD write clears both and DONE, a rejecting one overwrites the
code, and the same word with the same operands is rejected again with the same code
(`60_exceptions.md` R208). -/
def Obligations.FaultStaysUntilTheNextCommand : Prop :=
  (∀ s t : State, s.status.busy = false → step s = .next t →
    (∀ (w : Word) (rest : List Event), s.events ≠ .hostWrite 0x00 4 w :: rest) →
    (∀ rest : List Event, s.events ≠ .reset :: rest) → t.status = s.status) ∧
  (∀ (s t : State) (w : Word) (rest : List Event), s.status.busy = false →
    s.events = .hostWrite 0x00 4 w :: rest → step s = .next t →
    (t.status.busy = true ∧ t.status.done = false ∧ t.status.err = false ∧ t.status.errcode = 0#4) ∨
    (t.status.busy = false ∧ t.status.done = false ∧ t.status.err = true ∧
      t.status.errcode ∈ [1#4, 2#4, 3#4])) ∧
  (∀ (s t : State) (w : Word) (rest : List Event), s.status.busy = false →
    s.events = .hostWrite 0x00 4 w :: .hostWrite 0x00 4 w :: rest → step s = .next t →
    t.status.err = true → ∃ u, step t = .next u ∧ u.status = t.status)

/-! ### Reset -/

/-- `Reset` in any state: every piece of state of R20 takes its reset value, the OUT space and the
parameters are not affected, and the idle block then does nothing at its turn (`10_state.md` R36). -/
def Obligations.ResetLeavesTheTableValues : Prop :=
  (∀ (s : State) (rest : List Event), s.events = .reset :: rest →
    step s = .next { s with
      seed := { lo := 0#32, hi := 0#32 }
      rounds := 0#32
      capacity := 0#32
      cur := { lo := 0#32, hi := 0#32 }
      dig := { a := 0#32, b := 0#32, c := 0#32, d := 0#32 }
      status := { busy := false, done := false, err := false, wrlost := false, errcode := 0#4 }
      idx := 0#32
      opl := 0#4
      events := rest }) ∧
  (∀ s : State, s.status.busy = false → s.events = [] → step s = .next s) ∧
  (∀ (s : State) (rest : List Event), s.status.busy = false → s.events = .core :: rest →
    step s = .next { s with events := rest }) ∧
  State.reset.seed = { lo := 0#32, hi := 0#32 } ∧ State.reset.rounds = 0#32 ∧
  State.reset.capacity = 0#32 ∧ State.reset.cur = { lo := 0#32, hi := 0#32 } ∧
  State.reset.dig = { a := 0#32, b := 0#32, c := 0#32, d := 0#32 } ∧
  State.reset.status = { busy := false, done := false, err := false, wrlost := false, errcode := 0#4 } ∧
  State.reset.idx = 0#32 ∧ State.reset.opl = 0#4

/-- `Reset` during a command abandons it (`70_reset_and_hazards.md` R231): no completion is signalled, RES and
DIG are zero, and the abandoned command writes nothing more. For a CHAIN that had done `k` element steps the
elements below `k` keep the values written and every byte from element `k` on is as it was. -/
def Obligations.ResetAbandonsAChainAfterAPrefix : Prop :=
  (∀ s : State, s.status.busy = true → s.events = [.reset] → ∃ t, step s = .next t ∧
    t.status = { busy := false, done := false, err := false, wrlost := false, errcode := 0#4 } ∧
    t.cur = { lo := 0#32, hi := 0#32 } ∧ t.dig = { a := 0#32, b := 0#32, c := 0#32, d := 0#32 } ∧
    t.mem = s.mem ∧ ∀ j, core.run (1 + j) s = .next t) ∧
  ∀ (s : State) (k : Nat), s.status.busy = false → s.rounds ≤ s.params.maxRounds →
    s.rounds ≤ s.capacity → BufferPremise s → s.outStalled = false → k ≤ s.rounds.toNat →
    s.events = lineCmd .chain :: (List.replicate k .core ++ [.reset]) →
    ∃ m : Memory,
      core.run (k + 2) s = .next { State.reset with
        mem := m, params := s.params, outStalled := s.outStalled, reads := s.reads, draws := s.draws } ∧
      (∀ i, i < k → readElement m i = some (otpIterate (pack s.seed) i)) ∧
      (∀ addr, 8 * k ≤ addr → readByte m addr = readByte s.mem addr) ∧
      (∀ j, core.run (k + 2 + j) s = core.run (k + 2) s)

/-! ### Rules of the whole machine -/

/-- The invariant holds at reset, where BUSY, DONE and ERR are all 0 (`10_state.md` R28 and R36); the launch
premise holds there by the model's choice of the buffer's size (log 7). -/
def Obligations.ResetMeetsTheInvariant : Prop :=
  Inv State.reset ∧ BufferPremise State.reset ∧
  State.reset.status.busy = false ∧ State.reset.status.done = false ∧ State.reset.status.err = false

/-- Every step from a state that meets the invariant leads to one that meets it: the STATUS invariants
(`10_state.md` R28), a legal command in progress with its loop invariant
(`43_single_result_iterator.md` R172, `44_chain_generator.md` R187), and the OUT space in canonical form. -/
def Obligations.StepKeepsTheInvariant : Prop :=
  ∀ s t : State, Inv s → step s = .next t → Inv t

/-- The STATUS invariants are preserved by every transition; after any CMD write while idle exactly one of
BUSY, DONE, ERR is 1, and stays so at every later moment until the next Reset; before that write all three
are 0 (`10_state.md` R28, which the spec marks as derived). -/
def Obligations.StatusInvariantsArePreserved : Prop :=
  StatusInv State.reset.status ∧
  State.reset.status.busy = false ∧ State.reset.status.done = false ∧ State.reset.status.err = false ∧
  (∀ s t : State, StatusInv s.status → step s = .next t → StatusInv t.status) ∧
  (∀ s t : State, s.status.busy = false → s.status.done = false → s.status.err = false →
    step s = .next t → (∀ (w : Word) (rest : List Event), s.events ≠ .hostWrite 0x00 4 w :: rest) →
    t.status.busy = false ∧ t.status.done = false ∧ t.status.err = false) ∧
  (∀ (s t : State) (w : Word) (rest : List Event), s.status.busy = false →
    s.events = .hostWrite 0x00 4 w :: rest → step s = .next t → OneOfBusyDoneErr t.status) ∧
  (∀ s t : State, OneOfBusyDoneErr s.status → step s = .next t →
    (∀ rest : List Event, s.events ≠ .reset :: rest) → OneOfBusyDoneErr t.status)

/-- SEED, ROUNDS and CAPACITY change only by a host write to them while idle, or by Reset
(`70_reset_and_hazards.md` R243, which the spec marks as derived). -/
def Obligations.OperandRegistersPersist : Prop :=
  ∀ s t : State, step s = .next t → (∀ rest : List Event, s.events ≠ .reset :: rest) →
    (t.seed.lo ≠ s.seed.lo → s.status.busy = false ∧
      ∃ rest, s.events = .hostWrite 0x08 4 t.seed.lo :: rest) ∧
    (t.seed.hi ≠ s.seed.hi → s.status.busy = false ∧
      ∃ rest, s.events = .hostWrite 0x0C 4 t.seed.hi :: rest) ∧
    (t.rounds ≠ s.rounds → s.status.busy = false ∧
      ∃ rest, s.events = .hostWrite 0x10 4 t.rounds :: rest) ∧
    (t.capacity ≠ s.capacity → s.status.busy = false ∧
      ∃ rest, s.events = .hostWrite 0x14 4 t.capacity :: rest)

/-- OPL (`10_state.md` R31): an acceptance sets it to the OP field of the word, nothing else but Reset changes
it, a step of the core in a busy block is that of the command it names, and while idle its value has no effect:
with another OPL the step answers the same, but for the OPL it leaves. -/
def Obligations.OplIsLatchedAtAcceptance : Prop :=
  (∀ s t : State, step s = .next t → (∀ rest : List Event, s.events ≠ .reset :: rest) →
    (t.opl ≠ s.opl ∨ (s.status.busy = false ∧ t.status.busy = true)) →
    s.status.busy = false ∧ t.status.busy = true ∧
      ∃ w rest, s.events = .hostWrite 0x00 4 w :: rest ∧ t.opl = w.extractLsb' 0 4) ∧
  (∀ (s : State) (i : Instr), s.status.busy = true → s.events = [] → Instr.ofOpcode s.opl = some i →
    step s = exec i s) ∧
  (∀ (s t : State) (o : BitVec 4), s.status.busy = false → step s = .next t →
    ∃ t', step { s with opl := o } = .next t' ∧ { t' with opl := t.opl } = t ∧
      (t'.opl = o ∨ t'.opl = t.opl))

/-- IDX (`10_state.md` R30): an acceptance sets it to 0, each round step of ITERATE and each element step of
CHAIN adds 1 without wrapping (one whose output port is stalled is not taken, R247), nothing else but Reset
changes it, and during a command it is at most ROUNDS. -/
def Obligations.IdxCountsTheStepsOfTheLoop : Prop :=
  (∀ s t : State, step s = .next t → (∀ rest : List Event, s.events ≠ .reset :: rest) →
    (s.status.busy = false → t.status.busy = true → t.idx = 0#32) ∧
    (t.idx ≠ s.idx →
      (s.status.busy = false ∧ t.status.busy = true ∧ ∃ w rest, s.events = .hostWrite 0x00 4 w :: rest) ∨
      (s.status.busy = true ∧ (s.opl = 4#4 ∨ s.opl = 5#4) ∧ s.idx < s.rounds ∧
        t.idx.toNat = s.idx.toNat + 1))) ∧
  (∀ s t : State, s.status.busy = true →
    (s.opl = 4#4 ∨ (s.opl = 5#4 ∧ s.outStalled = false)) → s.idx < s.rounds →
    (s.events = [] ∨ (∃ rest, s.events = .core :: rest) ∨ (∃ rest, s.events = .wait :: rest)) →
    step s = .next t → t.idx = s.idx + 1#32) ∧
  (∀ s : State, Inv s → s.status.busy = true → s.idx ≤ s.rounds)

/-- CUR and DIG (`10_state.md` R24, R25): CUR is written by the acceptance of ITERATE and CHAIN, from SEED, and
by the steps of FOLD and ROUND and the rounds of ITERATE and CHAIN; DIG by the host while idle and by the steps
of COMPRESS and ROUND and the rounds of ITERATE and CHAIN; and by nothing else but Reset. -/
def Obligations.ResultRegistersChangeOnlyByTheirCommands : Prop :=
  ∀ s t : State, step s = .next t → (∀ rest : List Event, s.events ≠ .reset :: rest) →
    (t.cur ≠ s.cur →
      (s.status.busy = false ∧ t.status.busy = true ∧ t.cur = s.seed ∧
        ∃ rest, s.events = .hostWrite 0x00 4 4#32 :: rest ∨ s.events = .hostWrite 0x00 4 5#32 :: rest) ∨
      (s.status.busy = true ∧
        (s.opl = 2#4 ∨ s.opl = 3#4 ∨ ((s.opl = 4#4 ∨ s.opl = 5#4) ∧ s.idx < s.rounds)))) ∧
    (t.dig ≠ s.dig →
      (s.status.busy = false ∧
        ∃ off v rest, off ∈ [0x20, 0x24, 0x28, 0x2C] ∧ s.events = .hostWrite off 4 v :: rest) ∨
      (s.status.busy = true ∧
        (s.opl = 1#4 ∨ s.opl = 3#4 ∨ ((s.opl = 4#4 ∨ s.opl = 5#4) ∧ s.idx < s.rounds))))

/-- WRLOST is sticky: once 1 it stays 1 until Reset; it becomes 1 only by a host write while busy, and that
changes none of BUSY, DONE, ERR, ERRCODE (`10_state.md` R29). -/
def Obligations.WriteLostIsSticky : Prop :=
  ∀ s t : State, step s = .next t →
    (s.status.wrlost = true → (∀ rest : List Event, s.events ≠ .reset :: rest) →
      t.status.wrlost = true) ∧
    (s.status.wrlost = false → t.status.wrlost = true →
      s.status.busy = true ∧
      (∃ off v rest, s.events = .hostWrite off 4 v :: rest) ∧
      t.status = { s.status with wrlost := true })

/-- Nothing but its own completing step or Reset ends a command in progress
(`70_reset_and_hazards.md` R248, `60_exceptions.md` R212): when a step of a busy block leaves it idle, the
next event was Reset, or it was the core's turn and the command was COMPRESS, FOLD or ROUND, or IDX had
reached ROUNDS, and then DONE is set. -/
def Obligations.OnlyCompletionOrResetEndsBusy : Prop :=
  ∀ s t : State, s.status.busy = true → step s = .next t → t.status.busy = false →
    (∃ rest, s.events = .reset :: rest) ∨
    (t.status.done = true ∧ (s.opl = 1#4 ∨ s.opl = 2#4 ∨ s.opl = 3#4 ∨ s.rounds ≤ s.idx) ∧
      (s.events = [] ∨ (∃ rest, s.events = .core :: rest) ∨ (∃ rest, s.events = .wait :: rest)))

/-- The block never issues an `OutWrite` with an index at or above CAPACITY (`20_memory.md` R75): a byte that
a step changes lies in element IDX of a CHAIN in progress, with IDX < ROUNDS <= CAPACITY. -/
def Obligations.OutWritesStayBelowCapacity : Prop :=
  ∀ (s t : State) (addr : Nat), Inv s → step s = .next t → readByte t.mem addr ≠ readByte s.mem addr →
    s.status.busy = true ∧ s.opl = 5#4 ∧ 8 * s.idx.toNat ≤ addr ∧ addr < 8 * s.idx.toNat + 8 ∧
    s.idx < s.rounds ∧ s.rounds ≤ s.capacity

/-- Constant shape (`70_reset_and_hazards.md` R244, which the spec marks as derived): two runs that differ
in data only take the same transitions: which arm each step takes, which bytes of the OUT space are written,
and every stop are the same, and the runs go on differing in data only. -/
def Obligations.StepsDoNotBranchOnData : Prop :=
  ∀ s s' : State, SameShape s s' → SameShapeOutcome (step s) (step s')

/-- Every command in progress completes (`70_reset_and_hazards.md` R247): with nothing else queued, the launch
premise, and, for a CHAIN, a port that performs each `OutWrite`, the block is idle with DONE set after at most
ROUNDS + 1 steps; and so it is, one step later, when the port was stalled and the platform lets it go on. That
the core then gets its turn is the model's form of weak fairness (log 2). -/
def Obligations.EveryCommandInProgressCompletes : Prop :=
  (∀ s : State, Inv s → BufferPremise s → s.status.busy = true → s.events = [] →
    (s.opl = 5#4 → s.outStalled = false) →
    ∃ k t, k ≤ s.rounds.toNat + 1 ∧ core.run k s = .next t ∧ t.status.busy = false ∧
      t.status.done = true ∧ t.seed = s.seed ∧ t.rounds = s.rounds ∧ t.capacity = s.capacity) ∧
  (∀ s : State, Inv s → BufferPremise s → s.status.busy = true → s.events = [.outPort false] →
    ∃ k t, k ≤ s.rounds.toNat + 2 ∧ core.run k s = .next t ∧ t.status.busy = false ∧
      t.status.done = true ∧ t.seed = s.seed ∧ t.rounds = s.rounds ∧ t.capacity = s.capacity)

/-! ### The OUT space -/

/-- `OutWrite(i, v)` replaces element `i` with `v` and changes nothing else, and its bytes in order are the
little-endian bytes of the element, which are the message bytes of the state it packs
(`20_memory.md` R66, R69). That OUT is kept as bytes in a canonical form, which the write keeps, is the model's
(log 8, log 9). -/
def Obligations.OutWriteReplacesOneElement : Prop :=
  (∀ (m : Memory) (i : Word) (v : BitVec 64),
    readElement (outWrite m i v) i.toNat = some v ∧
    (∀ j, j ≠ i.toNat → readElement (outWrite m i v) j = readElement m j) ∧
    (∀ k, k < 8 → readByte (outWrite m i v) (8 * i.toNat + k) = some (v.extractLsb' (8 * k) 8)) ∧
    (∀ addr, addr < 8 * i.toNat ∨ 8 * i.toNat + 8 ≤ addr →
      readByte (outWrite m i v) addr = readByte m addr) ∧
    (Memory.wf m = true → Memory.wf (outWrite m i v) = true)) ∧
  (∀ (m : Memory) (i : Word) (x : OtpPair),
    (List.range 8).map (fun k => readByte (outWrite m i (pack x)) (8 * i.toNat + k)) =
      (messageBytes x).map some)

/-! ### The pure functions -/

/-- `pack(x0, x1) = {x1, x0} = (x1 << 32) | x0`, `unpack(s) = (s[31:0], s[63:32])`, and they are inverse; X0
is the first word of the MD5 block and X1 the second (`30_encoding.md` R98). -/
def Obligations.PackAndUnpackAreInverse : Prop :=
  (∀ x : OtpPair, pack x = (x.hi.setWidth 64 <<< 32) ||| x.lo.setWidth 64 ∧ unpack (pack x) = x) ∧
  (∀ v : BitVec 64, unpack v = { lo := v.extractLsb' 0 32, hi := v.extractLsb' 32 32 } ∧
    pack (unpack v) = v) ∧
  (∀ x : OtpPair, (block x)[0]? = some x.lo ∧ (block x)[1]? = some x.hi)

/-- Rotation (`40_md5_compressor.md` R122): its formula on numbers; bit `i` becomes bit `(i + n) mod 32` for
`1 <= n <= 31`; only the sixteen listed amounts occur; and the examples of the rule. -/
def Obligations.RotationMovesEveryBit : Prop :=
  (∀ (x : Word) (n : Nat), 1 ≤ n → n ≤ 31 →
    (rotl32 x n).toNat = ((x.toNat <<< n) % 2 ^ 32) ||| (x.toNat >>> (32 - n))) ∧
  (∀ (x : Word) (n i : Nat), 1 ≤ n → n ≤ 31 → i < 32 →
    (rotl32 x n).getLsbD ((i + n) % 32) = x.getLsbD i) ∧
  (∀ i, i < 64 → shiftAmount i ∈ [4, 5, 6, 7, 9, 10, 11, 12, 14, 15, 16, 17, 20, 21, 22, 23]) ∧
  rotl32 0x80000000#32 1 = 0x00000001#32 ∧ rotl32 0x00000001#32 31 = 0x80000000#32 ∧
  rotl32 0x12345678#32 16 = 0x56781234#32 ∧ rotl32 0xD76AA477#32 7 = 0xB5523BEB#32

/-- The functions F, G, H, I, bit by bit (`40_md5_compressor.md` R123): F is "if x then y else z", G is "if z
then x else y", H is the parity, I is `y xor (x or not z)`. -/
def Obligations.BitwiseFunctionsBitByBit : Prop :=
  ∀ (x y z : Word) (i : Nat), i < 32 →
    (md5F x y z).getLsbD i = (if x.getLsbD i then y.getLsbD i else z.getLsbD i) ∧
    (md5G x y z).getLsbD i = (if z.getLsbD i then x.getLsbD i else y.getLsbD i) ∧
    (md5H x y z).getLsbD i = ((x.getLsbD i ^^ y.getLsbD i) ^^ z.getLsbD i) ∧
    (md5I x y z).getLsbD i = (y.getLsbD i ^^ (x.getLsbD i || !(z.getLsbD i)))

/-- The order of the block words, written out group by group (`40_md5_compressor.md` R131). -/
def Obligations.BlockWordOrderIsTheTable : Prop :=
  (List.range 64).map blockIndex =
    [0, 1, 2, 3, 4, 5, 6, 7, 8, 9, 10, 11, 12, 13, 14, 15] ++
    [1, 6, 11, 0, 5, 10, 15, 4, 9, 14, 3, 8, 13, 2, 7, 12] ++
    [5, 8, 11, 14, 1, 4, 7, 10, 13, 0, 3, 6, 9, 12, 15, 2] ++
    [0, 7, 14, 5, 12, 3, 10, 1, 8, 15, 6, 13, 4, 11, 2, 9]

/-- The block word each step uses (`40_md5_compressor.md` R135, which the spec marks as derived): X0 at
steps 0, 19, 41, 48, X1 at steps 1, 16, 36, 55, 0x80 at steps 2, 29, 47, 62, 0x40 at steps 14, 25, 35, 50,
and 0 at the other 48, as R120, R131 and the table R132 have it. R135 counts 52 such steps, against the table and
its own list; that the table is followed is the model's choice (log 23). -/
def Obligations.BlockWordsEnterAtTheirSteps : Prop :=
  ∀ (x : OtpPair) (i : Nat), i < 64 →
    (block x).getD (blockIndex i) 0#32 =
      if i ∈ [0, 19, 41, 48] then x.lo
      else if i ∈ [1, 16, 36, 55] then x.hi
      else if i ∈ [2, 29, 47, 62] then 0x00000080#32
      else if i ∈ [14, 25, 35, 50] then 0x00000040#32
      else 0#32

/-- `compress` agrees with a second MD5, written separately (Machine/Reference.lean: in-place operations in RFC
1321's shape over the table R132, other forms of the functions), on the 8 message bytes
(`40_md5_compressor.md` R133): the padded bytes read as little-endian words are the block, the two block
functions agree on it, and the digest words in little-endian bytes are the byte digest. The shape and the
padding of the second MD5 are from RFC 1321 (log 17, PRESUMED). -/
def Obligations.CompressIsMd5OfTheMessageBytes : Prop :=
  ∀ x : OtpPair,
    (paddedBytes (messageBytes x)).length = 64 ∧
    wordsOfBytes (paddedBytes (messageBytes x)) = block x ∧
    compress x = referenceBlock (block x) ∧
    digestBytes (compress x) = md5OneBlock (messageBytes x) ∧
    wordsOfBytes (md5OneBlock (messageBytes x)) =
      [(compress x).a, (compress x).b, (compress x).c, (compress x).d]

/-- The fold (`41_folder.md` R150): `(A xor C, B xor D)`, which as a 128-bit digest `{D, C, B, A}` is the
XOR of the low half `{B, A}` with the high half `{D, C}`. -/
def Obligations.FoldIsTheXorOfTheHalves : Prop :=
  ∀ w : Digest,
    foldDigest w = { lo := w.a ^^^ w.c, hi := w.b ^^^ w.d } ∧
    pack (foldDigest w) =
      (w.d ++ w.c ++ w.b ++ w.a).extractLsb' 0 64 ^^^ (w.d ++ w.c ++ w.b ++ w.a).extractLsb' 64 64

/-! ### Statements added after the review -/

/-- The second entry point `computeChain(output, capacity, seed, rounds)` (`30_encoding.md` R106), run from
any idle state whose buffer has at least `capacity` elements (R236) and whose output port performs writes
(R247): when both checks pass, elements 0 to rounds-1 hold the chain, every byte after them is as it was,
RES holds the last element written and STATUS reads DONE; out of range, or with too small a capacity, STATUS
reads ROUNDS_RANGE or CAPACITY and OUT is as it was. The list of reads, the queue and that no poll of the
WAIT is recorded are the model's (log 2, log 3, log 4). -/
def Obligations.ComputeChainWritesTheChain : Prop :=
  ∀ (s : State) (seed : BitVec 64) (capacity rounds : Word) (rest : List Event), s.status.busy = false →
    s.events = computeChain capacity seed rounds ++ rest →
    (rounds ≤ s.params.maxRounds → rounds ≤ capacity → capacity.toNat ≤ s.params.outSize →
      s.outStalled = false → ∃ t : State,
      core.run (rounds.toNat + 8) s = .next t ∧ t.events = rest ∧
      t.reads = (if s.status.wrlost then 0x0A#32 else 0x02#32) :: s.reads ∧
      pack t.cur = otpIterate seed (rounds.toNat - 1) ∧
      (∀ i, i < rounds.toNat → readElement t.mem i = some (otpIterate seed i)) ∧
      (∀ addr, 8 * rounds.toNat ≤ addr → readByte t.mem addr = readByte s.mem addr)) ∧
    (rounds ≤ s.params.maxRounds → capacity < rounds → ∃ t : State,
      core.run 7 s = .next t ∧ t.events = rest ∧ t.mem = s.mem ∧
      t.reads = (if s.status.wrlost then 0x3C#32 else 0x34#32) :: s.reads) ∧
    (s.params.maxRounds < rounds → ∃ t : State,
      core.run 7 s = .next t ∧ t.events = rest ∧ t.mem = s.mem ∧
      t.reads = (if s.status.wrlost then 0x2C#32 else 0x24#32) :: s.reads)

/-- What a whole step can stop at: under the invariant and the launch premise of CHAIN (R236), a step answers a
next state, or the next event is a register access that `20_memory.md` R70 gives no meaning and it is refused by
name (log 10). No step faults. -/
def Obligations.StepStopsOnlyAtAnUndefinedAccess : Prop :=
  ∀ s : State, Inv s → BufferPremise s →
    (∃ t, step s = .next t) ∨
    (∃ off width rest, ¬ (width = 4 ∧ off % 4 = 0 ∧ off < 0x40) ∧
      ((∃ v, s.events = .hostWrite off width v :: rest) ∨ s.events = .hostRead off width :: rest) ∧
      step s = .refused (.regAccess off width))

/-- The table R132 of `40_md5_compressor.md` (derived there from R123, R129, R130, R131) is what the step
functions give: 64 rows, each with the function, the block-word index, the rotation and the constant of its
step. -/
def Obligations.StepTableIsTheFormulas : Prop :=
  stepTable.length = 64 ∧
  ∀ i r, stepTable[i]? = some r →
    r.index = blockIndex i ∧ r.shift = shiftAmount i ∧ r.const = additiveConstant i ∧
    ∀ x y z, referenceFunction r.fn x y z = stepFunction i x y z

/-- A stalled output port (`70_reset_and_hazards.md` R247, `93_implementation_defined.md` U9): while the platform
does not perform `OutWrite`s, a CHAIN with an element to write stays as it is at every turn of the core, a WAIT
or an empty queue goes on so for ever, and the host reads STATUS with BUSY = 1. Only the platform changes whether
the port is stalled, and every other transition of a command is the same whether it is or not. That a stalled
`OutWrite` leaves the whole step untaken, and the event by which the platform acts, are the model's (log 13). -/
def Obligations.StalledOutputPortHangsChain : Prop :=
  (∀ s : State, s.status.busy = true → s.opl = 5#4 → s.idx < s.rounds → s.outStalled = true →
    exec .chain s = .next s ∧
    ((s.events = [] ∨ ∃ rest, s.events = .wait :: rest) → ∀ k, core.run k s = .next s) ∧
    (∀ rest : List Event, step { s with events := .core :: rest } = .next { s with events := rest }) ∧
    (∀ rest : List Event, step { s with events := lineRd .status :: rest } =
      .next { s with events := rest, reads := statusWord s.status :: s.reads }) ∧
    (statusWord s.status).getLsbD 0 = true) ∧
  (∀ (s : State) (b : Bool) (rest : List Event),
    step { s with events := .outPort b :: rest } = .next { s with outStalled := b, events := rest }) ∧
  (∀ s t : State, step s = .next t → t.outStalled ≠ s.outStalled →
    ∃ rest, s.events = .outPort t.outStalled :: rest) ∧
  (∀ (i : Instr) (s t : State) (b : Bool), i ≠ .chain ∨ s.status.busy = false ∨ s.rounds ≤ s.idx →
    exec i s = .next t → exec i { s with outStalled := b } = .next { t with outStalled := b })
end

