-- ==== Sys2Proof/Laws/Memory.lean ====
section
/-! SUPPORT. The laws of the OUT space: a read after a write, and the canonical form kept by every write. -/

namespace Sys2Proof.Machine

@[simp] theorem readByte_nil (addr : Nat) : readByte [] addr = none := rfl

theorem readByte_cons (a : Nat) (b : Byte) (rest : Memory) (addr : Nat) :
    readByte ((a, b) :: rest) addr = if a = addr then some b else readByte rest addr := rfl

/-- The byte just written is the byte read, whatever the memory. -/
@[simp] theorem readByte_writeByte_same (m : Memory) (addr : Nat) (v : Byte) :
    readByte (writeByte m addr v) addr = some v := by
  induction m with
  | nil => simp [writeByte, readByte]
  | cons c rest ih =>
    obtain ⟨a, b⟩ := c
    simp only [writeByte]
    split
    · simp [readByte]
    · split
      · simp [readByte]
      · rename_i h
        simp [readByte, Ne.symm h, ih]

/-- A write leaves every other address alone. -/
theorem readByte_writeByte_other (m : Memory) {addr other : Nat} (v : Byte) (h : other ≠ addr) :
    readByte (writeByte m addr v) other = readByte m other := by
  induction m with
  | nil => simp [writeByte, readByte, h.symm]
  | cons c rest ih =>
    obtain ⟨a, b⟩ := c
    simp only [writeByte]
    split
    · simp [readByte, h.symm]
    · split
      · rename_i heq
        subst heq
        simp [readByte, h.symm]
      · simp only [readByte_cons, ih]

/-- Both cases at once. -/
theorem readByte_writeByte (m : Memory) (addr other : Nat) (v : Byte) :
    readByte (writeByte m addr v) other = if other = addr then some v else readByte m other := by
  split
  · subst_vars
    simp
  · exact readByte_writeByte_other m v ‹_›

theorem Memory.wf_cons_cons (x y : Host.Cell) (rest : Memory) :
    Memory.wf (x :: y :: rest) = true ↔ x.1 < y.1 ∧ Memory.wf (y :: rest) = true := by
  simp [Memory.wf]

/-- What lies before a memory in canonical form is kept before it by a write at a higher address. -/
theorem wf_cons_writeByte (x : Host.Cell) (m : Memory) (addr : Nat) (v : Byte)
    (hwf : Memory.wf (x :: m) = true) (hx : x.1 < addr) :
    Memory.wf (x :: writeByte m addr v) = true := by
  induction m generalizing x with
  | nil => simp [writeByte, Memory.wf, hx]
  | cons c rest ih =>
    obtain ⟨a, b⟩ := c
    obtain ⟨hxa, hrest⟩ := (Memory.wf_cons_cons _ _ _).mp hwf
    simp only [writeByte]
    split
    · exact (Memory.wf_cons_cons _ _ _).mpr ⟨hx, (Memory.wf_cons_cons _ _ _).mpr ⟨‹_›, hrest⟩⟩
    · split
      · rename_i heq
        subst heq
        refine (Memory.wf_cons_cons _ _ _).mpr ⟨hx, ?_⟩
        cases rest with
        | nil => rfl
        | cons d rest => exact (Memory.wf_cons_cons _ _ _).mpr ((Memory.wf_cons_cons _ _ _).mp hrest)
      · refine (Memory.wf_cons_cons _ _ _).mpr ⟨hxa, ih (a, b) hrest ?_⟩
        show a < addr
        omega

/-- A write keeps the canonical form. -/
theorem writeByte_keeps_wf (m : Memory) (addr : Nat) (v : Byte) (hwf : Memory.wf m = true) :
    Memory.wf (writeByte m addr v) = true := by
  cases m with
  | nil => rfl
  | cons c rest =>
    obtain ⟨a, b⟩ := c
    simp only [writeByte]
    split
    · exact (Memory.wf_cons_cons _ _ _).mpr ⟨‹_›, hwf⟩
    · split
      · rename_i heq
        subst heq
        cases rest with
        | nil => rfl
        | cons d rest => exact (Memory.wf_cons_cons _ _ _).mpr ((Memory.wf_cons_cons _ _ _).mp hwf)
      · exact wf_cons_writeByte (a, b) rest addr v hwf (by show a < addr; omega)

/-- The first `n` bytes of an element, written. -/
theorem readByte_writeBytes (m : Memory) (addr : Nat) (v : BitVec 64) (n other : Nat) :
    readByte (writeBytes m addr v n) other =
      if addr ≤ other ∧ other < addr + n then some (elementByte v (other - addr)) else readByte m other := by
  induction n with
  | zero =>
    rw [if_neg (by omega)]
    rfl
  | succ n ih =>
    rw [writeBytes, readByte_writeByte, ih]
    by_cases h : other = addr + n
    · subst h
      rw [if_pos rfl, if_pos (by omega), Nat.add_sub_cancel_left]
    · rw [if_neg h]
      by_cases h' : addr ≤ other ∧ other < addr + n
      · rw [if_pos h', if_pos (by omega)]
      · rw [if_neg h', if_neg (by omega)]

theorem writeBytes_keeps_wf (m : Memory) (addr : Nat) (v : BitVec 64) (n : Nat) (hwf : Memory.wf m = true) :
    Memory.wf (writeBytes m addr v n) = true := by
  induction n with
  | zero => exact hwf
  | succ n ih => exact writeByte_keeps_wf _ _ _ ih

/-- Everything `OutWrite` does, byte by byte (`20_memory.md` R66, R69). -/
theorem readByte_outWrite (m : Memory) (index : Word) (v : BitVec 64) (other : Nat) :
    readByte (outWrite m index v) other =
      if elementAddr index ≤ other ∧ other < elementAddr index + 8
      then some (elementByte v (other - elementAddr index)) else readByte m other :=
  readByte_writeBytes m (elementAddr index) v 8 other

/-- `OutWrite` keeps the canonical form. -/
theorem outWrite_keeps_wf (m : Memory) (index : Word) (v : BitVec 64) (hwf : Memory.wf m = true) :
    Memory.wf (outWrite m index v) = true :=
  writeBytes_keeps_wf m (elementAddr index) v 8 hwf

/-- The eight bytes of an element, put together, are the element. -/
theorem elementBytes_append (v : BitVec 64) :
    elementByte v 7 ++ elementByte v 6 ++ elementByte v 5 ++ elementByte v 4 ++ elementByte v 3 ++
      elementByte v 2 ++ elementByte v 1 ++ elementByte v 0 = v := by
  apply BitVec.eq_of_getLsbD_eq
  intro i hi
  simp only [elementByte, BitVec.getLsbD_append, BitVec.getLsbD_extractLsb']
  repeat' split
  all_goals
    rw [decide_eq_true (by omega), Bool.true_and]
    congr 1
    omega

/-- `readElement` reads only the eight bytes of its element. -/
theorem readElement_congr (m m' : Memory) (i : Nat)
    (h : ∀ k, k < 8 → readByte m (8 * i + k) = readByte m' (8 * i + k)) :
    readElement m i = readElement m' i := by
  have h0 := h 0 (by omega)
  rw [Nat.add_zero] at h0
  simp only [readElement, h0, h 1 (by omega), h 2 (by omega), h 3 (by omega), h 4 (by omega),
    h 5 (by omega), h 6 (by omega), h 7 (by omega)]

/-- An element all of whose bytes are those of `v` is `v`. -/
theorem readElement_of_bytes (m : Memory) (i : Nat) (v : BitVec 64)
    (h : ∀ k, k < 8 → readByte m (8 * i + k) = some (elementByte v k)) :
    readElement m i = some v := by
  have h0 := h 0 (by omega)
  rw [Nat.add_zero] at h0
  simp only [readElement, h0, h 1 (by omega), h 2 (by omega), h 3 (by omega), h 4 (by omega),
    h 5 (by omega), h 6 (by omega), h 7 (by omega), elementBytes_append]

end Sys2Proof.Machine
end

