-- ==== Sys2Proof/Laws/Operands.lean ====
section
/-! SUPPORT. The register window: the offsets of R60 and the accesses of R70, said once. -/

namespace Sys2Proof.Machine

/-- The register at an offset is the one whose offset it is. -/
theorem regAt_eq_some_iff (off : Nat) (r : Reg) : regAt off = some r ↔ off = regOffset r := by
  constructor
  · intro h
    unfold regAt at h
    split at h <;> simp_all [regOffset] <;> subst h <;> rfl
  · rintro rfl
    cases r <;> rfl

/-- An access reaches a register exactly when it is 32 bits wide at that register's offset. -/
theorem regAccessed_eq_some_iff (off width : Nat) (r : Reg) :
    regAccessed off width = some r ↔ width = 4 ∧ off = regOffset r := by
  simp [regAccessed, regAt_eq_some_iff]

@[simp] theorem regAccessed_regOffset (r : Reg) : regAccessed (regOffset r) 4 = some r :=
  (regAccessed_eq_some_iff _ _ _).mpr ⟨rfl, rfl⟩

@[simp] theorem regAccessed_cmd : regAccessed 0 4 = some .cmd := rfl

/-- The accesses that reach a register are the well-formed ones. -/
theorem regAccessed_isSome (off width : Nat) : (regAccessed off width).isSome = accessWf off width := by
  by_cases hw : width = 4
  · subst hw
    by_cases ho : off < 64
    · interval_cases off <;> rfl
    · have hnone : regAt off = none := by
        unfold regAt
        split <;> first | omega | rfl
      simp [regAccessed, hnone, accessWf, ho]
  · simp [regAccessed, accessWf, hw]

/-- A read of a specified register is exact. -/
@[simp] theorem readReg_specified (r : Reg) (s : State) (h : readIsDrawn r s = false) :
    readReg r s = regValue r s := by
  simp [readReg, h]

end Sys2Proof.Machine
end

