-- ==== Sys2Proof/Laws/PerInstr.lean ====
section
/-! SUPPORT. Statements about the command words, one lemma per command. -/

namespace Sys2Proof.Laws.WordFields

/-- What the word of a command holds (`30_encoding.md` R91, R94): its OP field is the command's opcode, the
bits above it are zero, the two fields together are a well-formed command word, and putting them together
again gives the word. -/
def Statement (i : Instr) : Prop :=
  fieldsOf (encode i) = { op := i.opcode, zero := 0#28 } ∧ (fieldsOf (encode i)).wf = true ∧
  (fieldsOf (encode i)).word = encode i ∧ decodeTableWord 32 (encode i).toNat = some i

theorem compress : Statement .compress := by unfold Statement; decide

theorem fold : Statement .fold := by unfold Statement; decide

theorem round : Statement .round := by unfold Statement; decide

theorem iterate : Statement .iterate := by unfold Statement; decide

theorem chain : Statement .chain := by unfold Statement; decide

end Sys2Proof.Laws.WordFields
end

