-- ==== Sys2Proof/Laws/Reference.lean ====
section
/-! SUPPORT. The forms in which the reference MD5 of Machine/Reference.lean writes the functions and the rotation
are those of `40_md5_compressor.md` R122 and R123. -/

namespace Sys2Proof.Machine

section
variable (x y z : Word)

theorem referenceFunction_f : referenceFunction .f x y z = md5F x y z := by
  apply BitVec.eq_of_getLsbD_eq
  intro i hi
  simp only [referenceFunction, md5F, BitVec.getLsbD_xor, BitVec.getLsbD_and, BitVec.getLsbD_or,
    BitVec.getLsbD_not, hi, decide_true, Bool.true_and]
  cases x.getLsbD i <;> cases y.getLsbD i <;> cases z.getLsbD i <;> rfl

theorem referenceFunction_g : referenceFunction .g x y z = md5G x y z := by
  apply BitVec.eq_of_getLsbD_eq
  intro i hi
  simp only [referenceFunction, md5G, BitVec.getLsbD_xor, BitVec.getLsbD_and, BitVec.getLsbD_or,
    BitVec.getLsbD_not, hi, decide_true, Bool.true_and]
  cases x.getLsbD i <;> cases y.getLsbD i <;> cases z.getLsbD i <;> rfl

theorem referenceFunction_h : referenceFunction .h x y z = md5H x y z :=
  (BitVec.xor_assoc x y z).symm

theorem referenceFunction_i : referenceFunction .i x y z = md5I x y z := by
  apply BitVec.eq_of_getLsbD_eq
  intro i hi
  simp only [referenceFunction, md5I, BitVec.getLsbD_xor, BitVec.getLsbD_and, BitVec.getLsbD_or,
    BitVec.getLsbD_not, hi, decide_true, Bool.true_and]
  cases x.getLsbD i <;> cases y.getLsbD i <;> cases z.getLsbD i <;> rfl

end

/-- The library's rotation is `rotl32` on the amounts of R122. -/
theorem rotateLeft_eq_rotl32 (x : Word) {n : Nat} (h : n < 32) : x.rotateLeft n = rotl32 x n := by
  rw [BitVec.rotateLeft_eq_rotateLeftAux_of_lt h]
  rfl

/-- One operation of the reference is the computed word of one MD5 step, for a row that fits the step. -/
theorem referenceOp_eq_md5Step {i : Nat} {r : StepRow} (m : List Word) (w : Digest)
    (hf : ∀ x y z, referenceFunction r.fn x y z = stepFunction i x y z) (hg : r.index = blockIndex i)
    (hs : r.shift = shiftAmount i) (hk : r.const = additiveConstant i) (hlt : r.shift < 32) :
    referenceOp m r w.a w.b w.c w.d = (md5Step m i w).b := by
  rw [referenceOp, rotateLeft_eq_rotl32 _ hlt, hf, hg, hs, hk]
  rfl

end Sys2Proof.Machine
end

