-- ==== Sys2Proof/Laws/State.lean ====
section
/-! SUPPORT. One lemma per field per named update of the state, so that no proof unfolds a record update. -/

namespace Sys2Proof.Machine

variable (s : State)

/-! ### accept -/

@[simp] theorem accept_seed (op : BitVec 4) : (accept op s).seed = s.seed := rfl
@[simp] theorem accept_rounds (op : BitVec 4) : (accept op s).rounds = s.rounds := rfl
@[simp] theorem accept_capacity (op : BitVec 4) : (accept op s).capacity = s.capacity := rfl
@[simp] theorem accept_cur (op : BitVec 4) : (accept op s).cur = s.cur := rfl
@[simp] theorem accept_dig (op : BitVec 4) : (accept op s).dig = s.dig := rfl
@[simp] theorem accept_status (op : BitVec 4) : (accept op s).status = statusAccepted s.status := rfl
@[simp] theorem accept_idx (op : BitVec 4) : (accept op s).idx = 0#32 := rfl
@[simp] theorem accept_opl (op : BitVec 4) : (accept op s).opl = op := rfl
@[simp] theorem accept_mem (op : BitVec 4) : (accept op s).mem = s.mem := rfl
@[simp] theorem accept_params (op : BitVec 4) : (accept op s).params = s.params := rfl
@[simp] theorem accept_outStalled (op : BitVec 4) : (accept op s).outStalled = s.outStalled := rfl
@[simp] theorem accept_events (op : BitVec 4) : (accept op s).events = s.events := rfl
@[simp] theorem accept_reads (op : BitVec 4) : (accept op s).reads = s.reads := rfl
@[simp] theorem accept_draws (op : BitVec 4) : (accept op s).draws = s.draws := rfl

/-! ### reject -/

@[simp] theorem reject_seed (f : CmdFault) : (reject f s).seed = s.seed := rfl
@[simp] theorem reject_rounds (f : CmdFault) : (reject f s).rounds = s.rounds := rfl
@[simp] theorem reject_capacity (f : CmdFault) : (reject f s).capacity = s.capacity := rfl
@[simp] theorem reject_cur (f : CmdFault) : (reject f s).cur = s.cur := rfl
@[simp] theorem reject_dig (f : CmdFault) : (reject f s).dig = s.dig := rfl
@[simp] theorem reject_status (f : CmdFault) : (reject f s).status = statusRejected f s.status := rfl
@[simp] theorem reject_idx (f : CmdFault) : (reject f s).idx = s.idx := rfl
@[simp] theorem reject_opl (f : CmdFault) : (reject f s).opl = s.opl := rfl
@[simp] theorem reject_mem (f : CmdFault) : (reject f s).mem = s.mem := rfl
@[simp] theorem reject_params (f : CmdFault) : (reject f s).params = s.params := rfl
@[simp] theorem reject_outStalled (f : CmdFault) : (reject f s).outStalled = s.outStalled := rfl
@[simp] theorem reject_events (f : CmdFault) : (reject f s).events = s.events := rfl
@[simp] theorem reject_reads (f : CmdFault) : (reject f s).reads = s.reads := rfl
@[simp] theorem reject_draws (f : CmdFault) : (reject f s).draws = s.draws := rfl

/-! ### complete -/

@[simp] theorem complete_seed : (complete s).seed = s.seed := rfl
@[simp] theorem complete_rounds : (complete s).rounds = s.rounds := rfl
@[simp] theorem complete_capacity : (complete s).capacity = s.capacity := rfl
@[simp] theorem complete_cur : (complete s).cur = s.cur := rfl
@[simp] theorem complete_dig : (complete s).dig = s.dig := rfl
@[simp] theorem complete_status : (complete s).status = statusCompleted s.status := rfl
@[simp] theorem complete_idx : (complete s).idx = s.idx := rfl
@[simp] theorem complete_opl : (complete s).opl = s.opl := rfl
@[simp] theorem complete_mem : (complete s).mem = s.mem := rfl
@[simp] theorem complete_params : (complete s).params = s.params := rfl
@[simp] theorem complete_outStalled : (complete s).outStalled = s.outStalled := rfl
@[simp] theorem complete_events : (complete s).events = s.events := rfl
@[simp] theorem complete_reads : (complete s).reads = s.reads := rfl
@[simp] theorem complete_draws : (complete s).draws = s.draws := rfl

/-! ### dropWrite -/

@[simp] theorem dropWrite_seed : (dropWrite s).seed = s.seed := rfl
@[simp] theorem dropWrite_rounds : (dropWrite s).rounds = s.rounds := rfl
@[simp] theorem dropWrite_capacity : (dropWrite s).capacity = s.capacity := rfl
@[simp] theorem dropWrite_cur : (dropWrite s).cur = s.cur := rfl
@[simp] theorem dropWrite_dig : (dropWrite s).dig = s.dig := rfl
@[simp] theorem dropWrite_status : (dropWrite s).status = statusWriteLost s.status := rfl
@[simp] theorem dropWrite_idx : (dropWrite s).idx = s.idx := rfl
@[simp] theorem dropWrite_opl : (dropWrite s).opl = s.opl := rfl
@[simp] theorem dropWrite_mem : (dropWrite s).mem = s.mem := rfl
@[simp] theorem dropWrite_params : (dropWrite s).params = s.params := rfl
@[simp] theorem dropWrite_outStalled : (dropWrite s).outStalled = s.outStalled := rfl
@[simp] theorem dropWrite_events : (dropWrite s).events = s.events := rfl
@[simp] theorem dropWrite_reads : (dropWrite s).reads = s.reads := rfl
@[simp] theorem dropWrite_draws : (dropWrite s).draws = s.draws := rfl

/-! ### loadSeed -/

@[simp] theorem loadSeed_seed : (loadSeed s).seed = s.seed := rfl
@[simp] theorem loadSeed_rounds : (loadSeed s).rounds = s.rounds := rfl
@[simp] theorem loadSeed_capacity : (loadSeed s).capacity = s.capacity := rfl
@[simp] theorem loadSeed_cur : (loadSeed s).cur = s.seed := rfl
@[simp] theorem loadSeed_dig : (loadSeed s).dig = s.dig := rfl
@[simp] theorem loadSeed_status : (loadSeed s).status = s.status := rfl
@[simp] theorem loadSeed_idx : (loadSeed s).idx = s.idx := rfl
@[simp] theorem loadSeed_opl : (loadSeed s).opl = s.opl := rfl
@[simp] theorem loadSeed_mem : (loadSeed s).mem = s.mem := rfl
@[simp] theorem loadSeed_params : (loadSeed s).params = s.params := rfl
@[simp] theorem loadSeed_outStalled : (loadSeed s).outStalled = s.outStalled := rfl
@[simp] theorem loadSeed_events : (loadSeed s).events = s.events := rfl
@[simp] theorem loadSeed_reads : (loadSeed s).reads = s.reads := rfl
@[simp] theorem loadSeed_draws : (loadSeed s).draws = s.draws := rfl

/-! ### bumpIdx -/

@[simp] theorem bumpIdx_seed : (bumpIdx s).seed = s.seed := rfl
@[simp] theorem bumpIdx_rounds : (bumpIdx s).rounds = s.rounds := rfl
@[simp] theorem bumpIdx_capacity : (bumpIdx s).capacity = s.capacity := rfl
@[simp] theorem bumpIdx_cur : (bumpIdx s).cur = s.cur := rfl
@[simp] theorem bumpIdx_dig : (bumpIdx s).dig = s.dig := rfl
@[simp] theorem bumpIdx_status : (bumpIdx s).status = s.status := rfl
@[simp] theorem bumpIdx_idx : (bumpIdx s).idx = s.idx + 1#32 := rfl
@[simp] theorem bumpIdx_opl : (bumpIdx s).opl = s.opl := rfl
@[simp] theorem bumpIdx_mem : (bumpIdx s).mem = s.mem := rfl
@[simp] theorem bumpIdx_params : (bumpIdx s).params = s.params := rfl
@[simp] theorem bumpIdx_outStalled : (bumpIdx s).outStalled = s.outStalled := rfl
@[simp] theorem bumpIdx_events : (bumpIdx s).events = s.events := rfl
@[simp] theorem bumpIdx_reads : (bumpIdx s).reads = s.reads := rfl
@[simp] theorem bumpIdx_draws : (bumpIdx s).draws = s.draws := rfl

/-! ### recordCur -/

@[simp] theorem recordCur_seed : (recordCur s).seed = s.seed := rfl
@[simp] theorem recordCur_rounds : (recordCur s).rounds = s.rounds := rfl
@[simp] theorem recordCur_capacity : (recordCur s).capacity = s.capacity := rfl
@[simp] theorem recordCur_cur : (recordCur s).cur = s.cur := rfl
@[simp] theorem recordCur_dig : (recordCur s).dig = s.dig := rfl
@[simp] theorem recordCur_status : (recordCur s).status = s.status := rfl
@[simp] theorem recordCur_idx : (recordCur s).idx = s.idx := rfl
@[simp] theorem recordCur_opl : (recordCur s).opl = s.opl := rfl
@[simp] theorem recordCur_mem : (recordCur s).mem = outWrite s.mem s.idx (pack s.cur) := rfl
@[simp] theorem recordCur_params : (recordCur s).params = s.params := rfl
@[simp] theorem recordCur_outStalled : (recordCur s).outStalled = s.outStalled := rfl
@[simp] theorem recordCur_events : (recordCur s).events = s.events := rfl
@[simp] theorem recordCur_reads : (recordCur s).reads = s.reads := rfl
@[simp] theorem recordCur_draws : (recordCur s).draws = s.draws := rfl

/-! ### stepCompress -/

@[simp] theorem stepCompress_seed : (stepCompress s).seed = s.seed := rfl
@[simp] theorem stepCompress_rounds : (stepCompress s).rounds = s.rounds := rfl
@[simp] theorem stepCompress_capacity : (stepCompress s).capacity = s.capacity := rfl
@[simp] theorem stepCompress_cur : (stepCompress s).cur = s.cur := rfl
@[simp] theorem stepCompress_dig : (stepCompress s).dig = compress s.seed := rfl
@[simp] theorem stepCompress_status : (stepCompress s).status = statusCompleted s.status := rfl
@[simp] theorem stepCompress_idx : (stepCompress s).idx = s.idx := rfl
@[simp] theorem stepCompress_opl : (stepCompress s).opl = s.opl := rfl
@[simp] theorem stepCompress_mem : (stepCompress s).mem = s.mem := rfl
@[simp] theorem stepCompress_params : (stepCompress s).params = s.params := rfl
@[simp] theorem stepCompress_outStalled : (stepCompress s).outStalled = s.outStalled := rfl
@[simp] theorem stepCompress_events : (stepCompress s).events = s.events := rfl
@[simp] theorem stepCompress_reads : (stepCompress s).reads = s.reads := rfl
@[simp] theorem stepCompress_draws : (stepCompress s).draws = s.draws := rfl

/-! ### stepFold -/

@[simp] theorem stepFold_seed : (stepFold s).seed = s.seed := rfl
@[simp] theorem stepFold_rounds : (stepFold s).rounds = s.rounds := rfl
@[simp] theorem stepFold_capacity : (stepFold s).capacity = s.capacity := rfl
@[simp] theorem stepFold_cur : (stepFold s).cur = foldDigest s.dig := rfl
@[simp] theorem stepFold_dig : (stepFold s).dig = s.dig := rfl
@[simp] theorem stepFold_status : (stepFold s).status = statusCompleted s.status := rfl
@[simp] theorem stepFold_idx : (stepFold s).idx = s.idx := rfl
@[simp] theorem stepFold_opl : (stepFold s).opl = s.opl := rfl
@[simp] theorem stepFold_mem : (stepFold s).mem = s.mem := rfl
@[simp] theorem stepFold_params : (stepFold s).params = s.params := rfl
@[simp] theorem stepFold_outStalled : (stepFold s).outStalled = s.outStalled := rfl
@[simp] theorem stepFold_events : (stepFold s).events = s.events := rfl
@[simp] theorem stepFold_reads : (stepFold s).reads = s.reads := rfl
@[simp] theorem stepFold_draws : (stepFold s).draws = s.draws := rfl

/-! ### stepRound -/

@[simp] theorem stepRound_seed : (stepRound s).seed = s.seed := rfl
@[simp] theorem stepRound_rounds : (stepRound s).rounds = s.rounds := rfl
@[simp] theorem stepRound_capacity : (stepRound s).capacity = s.capacity := rfl
@[simp] theorem stepRound_cur : (stepRound s).cur = otpRound s.seed := rfl
@[simp] theorem stepRound_dig : (stepRound s).dig = compress s.seed := rfl
@[simp] theorem stepRound_status : (stepRound s).status = statusCompleted s.status := rfl
@[simp] theorem stepRound_idx : (stepRound s).idx = s.idx := rfl
@[simp] theorem stepRound_opl : (stepRound s).opl = s.opl := rfl
@[simp] theorem stepRound_mem : (stepRound s).mem = s.mem := rfl
@[simp] theorem stepRound_params : (stepRound s).params = s.params := rfl
@[simp] theorem stepRound_outStalled : (stepRound s).outStalled = s.outStalled := rfl
@[simp] theorem stepRound_events : (stepRound s).events = s.events := rfl
@[simp] theorem stepRound_reads : (stepRound s).reads = s.reads := rfl
@[simp] theorem stepRound_draws : (stepRound s).draws = s.draws := rfl

/-! ### advance -/

@[simp] theorem advance_seed : (advance s).seed = s.seed := rfl
@[simp] theorem advance_rounds : (advance s).rounds = s.rounds := rfl
@[simp] theorem advance_capacity : (advance s).capacity = s.capacity := rfl
@[simp] theorem advance_cur : (advance s).cur = otpRound s.cur := rfl
@[simp] theorem advance_dig : (advance s).dig = compress s.cur := rfl
@[simp] theorem advance_status : (advance s).status = s.status := rfl
@[simp] theorem advance_idx : (advance s).idx = s.idx + 1#32 := rfl
@[simp] theorem advance_opl : (advance s).opl = s.opl := rfl
@[simp] theorem advance_mem : (advance s).mem = s.mem := rfl
@[simp] theorem advance_params : (advance s).params = s.params := rfl
@[simp] theorem advance_outStalled : (advance s).outStalled = s.outStalled := rfl
@[simp] theorem advance_events : (advance s).events = s.events := rfl
@[simp] theorem advance_reads : (advance s).reads = s.reads := rfl
@[simp] theorem advance_draws : (advance s).draws = s.draws := rfl

/-! ### resetBlock -/

@[simp] theorem resetBlock_seed : (resetBlock s).seed = { lo := 0#32, hi := 0#32 } := rfl
@[simp] theorem resetBlock_rounds : (resetBlock s).rounds = 0#32 := rfl
@[simp] theorem resetBlock_capacity : (resetBlock s).capacity = 0#32 := rfl
@[simp] theorem resetBlock_cur : (resetBlock s).cur = { lo := 0#32, hi := 0#32 } := rfl
@[simp] theorem resetBlock_dig : (resetBlock s).dig = { a := 0#32, b := 0#32, c := 0#32, d := 0#32 } := rfl
@[simp] theorem resetBlock_status : (resetBlock s).status = Status.reset := rfl
@[simp] theorem resetBlock_idx : (resetBlock s).idx = 0#32 := rfl
@[simp] theorem resetBlock_opl : (resetBlock s).opl = 0#4 := rfl
@[simp] theorem resetBlock_mem : (resetBlock s).mem = s.mem := rfl
@[simp] theorem resetBlock_params : (resetBlock s).params = s.params := rfl
@[simp] theorem resetBlock_outStalled : (resetBlock s).outStalled = s.outStalled := rfl
@[simp] theorem resetBlock_events : (resetBlock s).events = s.events := rfl
@[simp] theorem resetBlock_reads : (resetBlock s).reads = s.reads := rfl
@[simp] theorem resetBlock_draws : (resetBlock s).draws = s.draws := rfl

/-! ### setEvents -/

@[simp] theorem setEvents_seed (q : List Event) : (setEvents q s).seed = s.seed := rfl
@[simp] theorem setEvents_rounds (q : List Event) : (setEvents q s).rounds = s.rounds := rfl
@[simp] theorem setEvents_capacity (q : List Event) : (setEvents q s).capacity = s.capacity := rfl
@[simp] theorem setEvents_cur (q : List Event) : (setEvents q s).cur = s.cur := rfl
@[simp] theorem setEvents_dig (q : List Event) : (setEvents q s).dig = s.dig := rfl
@[simp] theorem setEvents_status (q : List Event) : (setEvents q s).status = s.status := rfl
@[simp] theorem setEvents_idx (q : List Event) : (setEvents q s).idx = s.idx := rfl
@[simp] theorem setEvents_opl (q : List Event) : (setEvents q s).opl = s.opl := rfl
@[simp] theorem setEvents_mem (q : List Event) : (setEvents q s).mem = s.mem := rfl
@[simp] theorem setEvents_params (q : List Event) : (setEvents q s).params = s.params := rfl
@[simp] theorem setEvents_outStalled (q : List Event) : (setEvents q s).outStalled = s.outStalled := rfl
@[simp] theorem setEvents_events (q : List Event) : (setEvents q s).events = q := rfl
@[simp] theorem setEvents_reads (q : List Event) : (setEvents q s).reads = s.reads := rfl
@[simp] theorem setEvents_draws (q : List Event) : (setEvents q s).draws = s.draws := rfl

/-! ### setOutStalled -/

@[simp] theorem setOutStalled_seed (b : Bool) : (setOutStalled b s).seed = s.seed := rfl
@[simp] theorem setOutStalled_rounds (b : Bool) : (setOutStalled b s).rounds = s.rounds := rfl
@[simp] theorem setOutStalled_capacity (b : Bool) : (setOutStalled b s).capacity = s.capacity := rfl
@[simp] theorem setOutStalled_cur (b : Bool) : (setOutStalled b s).cur = s.cur := rfl
@[simp] theorem setOutStalled_dig (b : Bool) : (setOutStalled b s).dig = s.dig := rfl
@[simp] theorem setOutStalled_status (b : Bool) : (setOutStalled b s).status = s.status := rfl
@[simp] theorem setOutStalled_idx (b : Bool) : (setOutStalled b s).idx = s.idx := rfl
@[simp] theorem setOutStalled_opl (b : Bool) : (setOutStalled b s).opl = s.opl := rfl
@[simp] theorem setOutStalled_mem (b : Bool) : (setOutStalled b s).mem = s.mem := rfl
@[simp] theorem setOutStalled_params (b : Bool) : (setOutStalled b s).params = s.params := rfl
@[simp] theorem setOutStalled_outStalled (b : Bool) : (setOutStalled b s).outStalled = b := rfl
@[simp] theorem setOutStalled_events (b : Bool) : (setOutStalled b s).events = s.events := rfl
@[simp] theorem setOutStalled_reads (b : Bool) : (setOutStalled b s).reads = s.reads := rfl
@[simp] theorem setOutStalled_draws (b : Bool) : (setOutStalled b s).draws = s.draws := rfl

/-! ### takeRead -/

@[simp] theorem takeRead_seed (r : Reg) : (takeRead r s).seed = s.seed := rfl
@[simp] theorem takeRead_rounds (r : Reg) : (takeRead r s).rounds = s.rounds := rfl
@[simp] theorem takeRead_capacity (r : Reg) : (takeRead r s).capacity = s.capacity := rfl
@[simp] theorem takeRead_cur (r : Reg) : (takeRead r s).cur = s.cur := rfl
@[simp] theorem takeRead_dig (r : Reg) : (takeRead r s).dig = s.dig := rfl
@[simp] theorem takeRead_status (r : Reg) : (takeRead r s).status = s.status := rfl
@[simp] theorem takeRead_idx (r : Reg) : (takeRead r s).idx = s.idx := rfl
@[simp] theorem takeRead_opl (r : Reg) : (takeRead r s).opl = s.opl := rfl
@[simp] theorem takeRead_mem (r : Reg) : (takeRead r s).mem = s.mem := rfl
@[simp] theorem takeRead_params (r : Reg) : (takeRead r s).params = s.params := rfl
@[simp] theorem takeRead_outStalled (r : Reg) : (takeRead r s).outStalled = s.outStalled := rfl
@[simp] theorem takeRead_events (r : Reg) : (takeRead r s).events = s.events := rfl
@[simp] theorem takeRead_reads (r : Reg) : (takeRead r s).reads = readReg r s :: s.reads := rfl
@[simp] theorem takeRead_draws (r : Reg) : (takeRead r s).draws = if readIsDrawn r s then s.draws + 1 else s.draws := rfl

/-! ### storeReg: what a plain host write leaves alone, whatever the register -/

@[simp] theorem storeReg_cur (r : Reg) (v : Word) : (storeReg r v s).cur = s.cur := by
  cases r <;> rfl
@[simp] theorem storeReg_status (r : Reg) (v : Word) : (storeReg r v s).status = s.status := by
  cases r <;> rfl
@[simp] theorem storeReg_idx (r : Reg) (v : Word) : (storeReg r v s).idx = s.idx := by
  cases r <;> rfl
@[simp] theorem storeReg_opl (r : Reg) (v : Word) : (storeReg r v s).opl = s.opl := by
  cases r <;> rfl
@[simp] theorem storeReg_mem (r : Reg) (v : Word) : (storeReg r v s).mem = s.mem := by
  cases r <;> rfl
@[simp] theorem storeReg_params (r : Reg) (v : Word) : (storeReg r v s).params = s.params := by
  cases r <;> rfl
@[simp] theorem storeReg_outStalled (r : Reg) (v : Word) : (storeReg r v s).outStalled = s.outStalled := by
  cases r <;> rfl
@[simp] theorem storeReg_events (r : Reg) (v : Word) : (storeReg r v s).events = s.events := by
  cases r <;> rfl
@[simp] theorem storeReg_reads (r : Reg) (v : Word) : (storeReg r v s).reads = s.reads := by
  cases r <;> rfl
@[simp] theorem storeReg_draws (r : Reg) (v : Word) : (storeReg r v s).draws = s.draws := by
  cases r <;> rfl

/-! ### STATUS -/

section
variable (st : Status) (f : CmdFault)

@[simp] theorem statusAccepted_busy : (statusAccepted st).busy = true := rfl
@[simp] theorem statusAccepted_done : (statusAccepted st).done = false := rfl
@[simp] theorem statusAccepted_err : (statusAccepted st).err = false := rfl
@[simp] theorem statusAccepted_wrlost : (statusAccepted st).wrlost = st.wrlost := rfl
@[simp] theorem statusAccepted_errcode : (statusAccepted st).errcode = 0#4 := rfl
@[simp] theorem statusRejected_busy : (statusRejected f st).busy = st.busy := rfl
@[simp] theorem statusRejected_done : (statusRejected f st).done = false := rfl
@[simp] theorem statusRejected_err : (statusRejected f st).err = true := rfl
@[simp] theorem statusRejected_wrlost : (statusRejected f st).wrlost = st.wrlost := rfl
@[simp] theorem statusRejected_errcode : (statusRejected f st).errcode = faultCode f := rfl
@[simp] theorem statusCompleted_busy : (statusCompleted st).busy = false := rfl
@[simp] theorem statusCompleted_done : (statusCompleted st).done = true := rfl
@[simp] theorem statusCompleted_err : (statusCompleted st).err = st.err := rfl
@[simp] theorem statusCompleted_wrlost : (statusCompleted st).wrlost = st.wrlost := rfl
@[simp] theorem statusCompleted_errcode : (statusCompleted st).errcode = st.errcode := rfl
@[simp] theorem statusWriteLost_busy : (statusWriteLost st).busy = st.busy := rfl
@[simp] theorem statusWriteLost_done : (statusWriteLost st).done = st.done := rfl
@[simp] theorem statusWriteLost_err : (statusWriteLost st).err = st.err := rfl
@[simp] theorem statusWriteLost_wrlost : (statusWriteLost st).wrlost = true := rfl
@[simp] theorem statusWriteLost_errcode : (statusWriteLost st).errcode = st.errcode := rfl

end

end Sys2Proof.Machine
end

