-- ==== Sys2Proof/Laws/Transitions.lean ====
section
/-! SUPPORT. What each command's transition answers, while idle and while busy; what one step can do, said
once; and runs of steps. -/

namespace Sys2Proof.Machine

/-! ### The five commands -/

section
variable {s : State}

theorem exec_compress_busy (h : s.status.busy = true) : exec .compress s = .next (stepCompress s) := by
  simp [exec, execCompress, h]

theorem exec_compress_idle (h : s.status.busy = false) : exec .compress s = .next (accept 1#4 s) := by
  simp [exec, execCompress, h, Instr.opcode]

theorem exec_fold_busy (h : s.status.busy = true) : exec .fold s = .next (stepFold s) := by
  simp [exec, execFold, h]

theorem exec_fold_idle (h : s.status.busy = false) : exec .fold s = .next (accept 2#4 s) := by
  simp [exec, execFold, h, Instr.opcode]

theorem exec_round_busy (h : s.status.busy = true) : exec .round s = .next (stepRound s) := by
  simp [exec, execRound, h]

theorem exec_round_idle (h : s.status.busy = false) : exec .round s = .next (accept 3#4 s) := by
  simp [exec, execRound, h, Instr.opcode]

theorem exec_iterate_busy (h : s.status.busy = true) : exec .iterate s = .next (stepIterate s) := by
  simp [exec, execIterate, h]

theorem exec_iterate_idle (h : s.status.busy = false) : exec .iterate s = .next (acceptIterate s) := by
  simp [exec, execIterate, h]

theorem exec_chain_busy (h : s.status.busy = true) : exec .chain s = stepChain s := by
  simp [exec, execChain, h]

theorem exec_chain_idle (h : s.status.busy = false) : exec .chain s = .next (acceptChain s) := by
  simp [exec, execChain, h]

end

/-! ### The tests of the loops, as comparisons of numbers -/

theorem roundsOutOfRange_iff (s : State) :
    roundsOutOfRange s = true ↔ s.params.maxRounds.toNat < s.rounds.toNat := by
  simp [roundsOutOfRange, BitVec.ult]

theorem capacityTooSmall_iff (s : State) :
    capacityTooSmall s = true ↔ s.capacity.toNat < s.rounds.toNat := by
  simp [capacityTooSmall, BitVec.ult]

theorem roundsRemain_iff (s : State) : roundsRemain s = true ↔ s.idx.toNat < s.rounds.toNat := by
  simp [roundsRemain, BitVec.ult]

/-- The increment of IDX does not wrap while a round remains (`44_chain_generator.md` R196). -/
theorem idx_succ_toNat {i n : Word} (h : i.toNat < n.toNat) : (i + 1#32).toNat = i.toNat + 1 := by
  have := n.isLt
  simp [BitVec.toNat_add]
  omega

theorem anotherElementFollows_iff {s : State} (h : s.idx.toNat < s.rounds.toNat) :
    anotherElementFollows s = true ↔ s.idx.toNat + 1 < s.rounds.toNat := by
  simp only [anotherElementFollows, BitVec.ult, decide_eq_true_eq, idx_succ_toNat h]

/-! ### Acceptance -/

/-- Everything the acceptance of ITERATE can do. -/
theorem acceptIterate_cases (s : State) :
    (s.params.maxRounds.toNat < s.rounds.toNat ∧ acceptIterate s = reject .roundsRange s) ∨
    (s.rounds.toNat ≤ s.params.maxRounds.toNat ∧ acceptIterate s = loadSeed (accept 4#4 s)) := by
  unfold acceptIterate
  split
  · exact .inl ⟨(roundsOutOfRange_iff s).mp ‹_›, rfl⟩
  · rename_i h
    rw [roundsOutOfRange_iff] at h
    exact .inr ⟨by omega, rfl⟩

/-- Everything the acceptance of CHAIN can do, in the priority of `60_exceptions.md` R206. -/
theorem acceptChain_cases (s : State) :
    (s.params.maxRounds.toNat < s.rounds.toNat ∧ acceptChain s = reject .roundsRange s) ∨
    (s.rounds.toNat ≤ s.params.maxRounds.toNat ∧ s.capacity.toNat < s.rounds.toNat ∧
      acceptChain s = reject .capacity s) ∨
    (s.rounds.toNat ≤ s.params.maxRounds.toNat ∧ s.rounds.toNat ≤ s.capacity.toNat ∧
      acceptChain s = loadSeed (accept 5#4 s)) := by
  unfold acceptChain
  split
  · exact .inl ⟨(roundsOutOfRange_iff s).mp ‹_›, rfl⟩
  · rename_i h
    rw [roundsOutOfRange_iff] at h
    split
    · exact .inr (.inl ⟨by omega, (capacityTooSmall_iff s).mp ‹_›, rfl⟩)
    · rename_i h'
      rw [capacityTooSmall_iff] at h'
      exact .inr (.inr ⟨by omega, by omega, rfl⟩)

/-! ### Decoding -/

theorem ofOpcode_opcode (i : Instr) : Instr.ofOpcode i.opcode = some i := by
  cases i <;> rfl

theorem ofOpcode_eq_some_iff (op : BitVec 4) (i : Instr) :
    Instr.ofOpcode op = some i ↔ op = i.opcode := by
  constructor
  · intro h
    have := op.isLt
    apply BitVec.eq_of_toNat_eq
    unfold Instr.ofOpcode at h
    split at h <;> simp_all <;> subst h <;> rfl
  · rintro rfl
    exact ofOpcode_opcode i

/-! ### What a `CoreStep` can do -/

/-- Everything a `CoreStep` of a busy block can do. -/
theorem coreStep_cases {s t : State} (hb : s.status.busy = true) (h : coreStep s = .next t) :
    (s.opl = 1#4 ∧ t = stepCompress s) ∨ (s.opl = 2#4 ∧ t = stepFold s) ∨
    (s.opl = 3#4 ∧ t = stepRound s) ∨
    (s.opl = 4#4 ∧ s.idx.toNat < s.rounds.toNat ∧ t = advance s) ∨
    (s.opl = 4#4 ∧ s.rounds.toNat ≤ s.idx.toNat ∧ t = complete s) ∨
    (s.opl = 5#4 ∧ s.idx.toNat < s.rounds.toNat ∧ s.outStalled = false ∧
      s.idx.toNat < s.params.outSize ∧ t = elementStep s) ∨
    (s.opl = 5#4 ∧ s.idx.toNat < s.rounds.toNat ∧ s.outStalled = true ∧ t = s) ∨
    (s.opl = 5#4 ∧ s.rounds.toNat ≤ s.idx.toNat ∧ t = complete s) := by
  unfold coreStep at h
  split at h
  · rename_i i hi
    rw [ofOpcode_eq_some_iff] at hi
    cases i with
    | compress =>
      rw [exec_compress_busy hb] at h
      exact .inl ⟨hi, (Host.Outcome.next.inj h).symm⟩
    | fold =>
      rw [exec_fold_busy hb] at h
      exact .inr (.inl ⟨hi, (Host.Outcome.next.inj h).symm⟩)
    | round =>
      rw [exec_round_busy hb] at h
      exact .inr (.inr (.inl ⟨hi, (Host.Outcome.next.inj h).symm⟩))
    | iterate =>
      rw [exec_iterate_busy hb] at h
      have ht := (Host.Outcome.next.inj h).symm
      unfold stepIterate at ht
      split at ht
      · rename_i hr
        exact .inr (.inr (.inr (.inl ⟨hi, (roundsRemain_iff s).mp hr, ht⟩)))
      · rename_i hr
        rw [roundsRemain_iff] at hr
        exact .inr (.inr (.inr (.inr (.inl ⟨hi, by omega, ht⟩))))
    | chain =>
      rw [exec_chain_busy hb] at h
      unfold stepChain at h
      split at h
      · rename_i hr
        split at h
        · rename_i hp
          exact .inr (.inr (.inr (.inr (.inr (.inr (.inl
            ⟨hi, (roundsRemain_iff s).mp hr, hp, (Host.Outcome.next.inj h).symm⟩))))))
        · rename_i hp
          split at h
          · rename_i ho
            exact .inr (.inr (.inr (.inr (.inr (.inl
              ⟨hi, (roundsRemain_iff s).mp hr, by simpa using hp, ho, (Host.Outcome.next.inj h).symm⟩)))))
          · cases h
      · rename_i hr
        rw [roundsRemain_iff] at hr
        exact .inr (.inr (.inr (.inr (.inr (.inr (.inr
          ⟨hi, by omega, (Host.Outcome.next.inj h).symm⟩))))))
  · cases h

/-! ### What a write to CMD can do while idle -/

/-- Everything a command write to an idle block can do: it always answers a next state. -/
theorem commandWrite_cases {s : State} (w : Word) (hb : s.status.busy = false) :
    (∃ f, commandWrite w s = .next (reject f s)) ∨
    (∃ i, (i = Instr.compress ∨ i = Instr.fold ∨ i = Instr.round) ∧ decode w = .instr i ∧
      commandWrite w s = .next (accept i.opcode s)) ∨
    (decode w = .instr .iterate ∧ s.rounds.toNat ≤ s.params.maxRounds.toNat ∧
      commandWrite w s = .next (loadSeed (accept 4#4 s))) ∨
    (decode w = .instr .chain ∧ s.rounds.toNat ≤ s.params.maxRounds.toNat ∧
      s.rounds.toNat ≤ s.capacity.toNat ∧ commandWrite w s = .next (loadSeed (accept 5#4 s))) := by
  unfold commandWrite
  split
  · rename_i i hi
    cases i with
    | compress => exact .inr (.inl ⟨.compress, by simp, hi, exec_compress_idle hb⟩)
    | fold => exact .inr (.inl ⟨.fold, by simp, hi, exec_fold_idle hb⟩)
    | round => exact .inr (.inl ⟨.round, by simp, hi, exec_round_idle hb⟩)
    | iterate =>
      rw [exec_iterate_idle hb]
      rcases acceptIterate_cases s with ⟨-, he⟩ | ⟨hr, he⟩
      · exact .inl ⟨.roundsRange, by rw [he]⟩
      · exact .inr (.inr (.inl ⟨hi, hr, by rw [he]⟩))
    | chain =>
      rw [exec_chain_idle hb]
      rcases acceptChain_cases s with ⟨-, he⟩ | ⟨-, -, he⟩ | ⟨hr, hc, he⟩
      · exact .inl ⟨.roundsRange, by rw [he]⟩
      · exact .inl ⟨.capacity, by rw [he]⟩
      · exact .inr (.inr (.inr ⟨hi, hr, hc, by rw [he]⟩))
  · exact .inl ⟨.illegalCmd, rfl⟩

/-! ### What one step can do -/

/-- The ways a step can answer a next state. `q` is the queue after it. -/
inductive StepCase (s t : State) : Prop where
  /-- An idle block whose turn it is does nothing. -/
  | idle (q : List Event) (hb : s.status.busy = false)
      (hq : (s.events = [] ∧ q = []) ∨ s.events = .core :: q ∨ s.events = .wait :: q)
      (ht : t = setEvents q s)
  /-- A `CoreStep` of a busy block. -/
  | core (q : List Event) (hb : s.status.busy = true)
      (hq : (s.events = [] ∧ q = []) ∨ s.events = .core :: q ∨ (∃ r, s.events = .wait :: r ∧ q = s.events))
      (hc : coreStep (setEvents q s) = .next t)
  /-- A host write dropped because the block is busy. -/
  | dropped (r : Reg) (v : Word) (q : List Event) (hb : s.status.busy = true)
      (hq : s.events = .hostWrite (regOffset r) 4 v :: q) (ht : t = dropWrite (setEvents q s))
  /-- A write to CMD of an idle block. -/
  | command (w : Word) (q : List Event) (hb : s.status.busy = false)
      (hq : s.events = .hostWrite 0 4 w :: q) (hc : commandWrite w (setEvents q s) = .next t)
  /-- Any other host write to an idle block. -/
  | stored (r : Reg) (v : Word) (q : List Event) (hb : s.status.busy = false) (hr : r ≠ .cmd)
      (hq : s.events = .hostWrite (regOffset r) 4 v :: q) (ht : t = storeReg r v (setEvents q s))
  /-- A host read. -/
  | read (r : Reg) (q : List Event) (hq : s.events = .hostRead (regOffset r) 4 :: q)
      (ht : t = takeRead r (setEvents q s))
  /-- Reset. -/
  | reset (q : List Event) (hq : s.events = .reset :: q) (ht : t = resetBlock (setEvents q s))
  /-- The platform stalls its output port, or lets it go on. -/
  | outPort (b : Bool) (q : List Event) (hq : s.events = .outPort b :: q)
      (ht : t = setOutStalled b (setEvents q s))

/-- If a step answers a next state, one of the cases of `StepCase` holds. -/
theorem step_cases {s t : State} (h : step s = .next t) : StepCase s t := by
  unfold step at h
  split at h
  · rename_i hq
    unfold coreTurn at h
    split at h
    · rename_i hb
      refine .core [] hb (.inl ⟨hq, rfl⟩) ?_
      rwa [show setEvents [] s = s by cases s; simp_all [setEvents]]
    · rename_i hb
      refine .idle [] (by simpa using hb) (.inl ⟨hq, rfl⟩) ?_
      rw [show setEvents [] s = s by cases s; simp_all [setEvents]]
      exact (Host.Outcome.next.inj h).symm
  · rename_i e q hq
    cases e with
    | hostWrite off width v =>
      simp only [runEvent, hostWrite] at h
      split at h
      · rename_i r hr
        obtain ⟨rfl, rfl⟩ := (regAccessed_eq_some_iff _ _ _).mp hr
        unfold writeReg at h
        split at h
        · rename_i hb
          exact .dropped r v q hb hq (Host.Outcome.next.inj h).symm
        · rename_i hb
          split at h
          · rename_i hc
            subst hc
            exact .command v q (by simpa using hb) hq h
          · rename_i hc
            exact .stored r v q (by simpa using hb) hc hq (Host.Outcome.next.inj h).symm
      · cases h
    | hostRead off width =>
      simp only [runEvent, hostRead] at h
      split at h
      · rename_i r hr
        obtain ⟨rfl, rfl⟩ := (regAccessed_eq_some_iff _ _ _).mp hr
        exact .read r q hq (Host.Outcome.next.inj h).symm
      · cases h
    | wait =>
      simp only [runEvent] at h
      split at h
      · rename_i hb
        exact .core s.events hb (.inr (.inr ⟨q, hq, rfl⟩)) h
      · rename_i hb
        exact .idle q (by simpa using hb) (.inr (.inr hq)) (Host.Outcome.next.inj h).symm
    | core =>
      simp only [runEvent, coreTurn] at h
      split at h
      · rename_i hb
        exact .core q hb (.inr (.inl hq)) h
      · rename_i hb
        exact .idle q (by simpa using hb) (.inr (.inl hq)) (Host.Outcome.next.inj h).symm
    | reset => exact .reset q hq (Host.Outcome.next.inj h).symm
    | outPort b => exact .outPort b q hq (Host.Outcome.next.inj h).symm

/-! ### Runs -/

theorem run_zero (s : State) : core.run 0 s = .next s := rfl

theorem run_succ {s t : State} (k : Nat) (h : step s = .next t) :
    core.run (k + 1) s = core.run k t := by
  have h' : core.step s = .next t := h
  simp only [Host.Core.run, h']

/-- A run of `j + k` steps is a run of `j` and then one of `k`. -/
theorem run_add {s t : State} {j : Nat} (k : Nat) (h : core.run j s = .next t) :
    core.run (j + k) s = core.run k t := by
  induction j generalizing s with
  | zero =>
    cases h
    rw [Nat.zero_add]
  | succ j ih =>
    cases hs : step s with
    | next s' =>
      rw [run_succ j hs] at h
      rw [show j + 1 + k = (j + k) + 1 by omega, run_succ (j + k) hs]
      exact ih h
    | fault r =>
      have hs' : core.step s = .fault r := hs
      simp [Host.Core.run, hs'] at h
    | refused r =>
      have hs' : core.step s = .refused r := hs
      simp [Host.Core.run, hs'] at h

end Sys2Proof.Machine
end

