-- ==== Sys2Proof/Laws/Steps.lean ====
section
/-! SUPPORT. One step, said once for each kind of next event, and the loop steps of ITERATE and CHAIN. -/

namespace Sys2Proof.Machine

/-- A `HostWrite` to a register. -/
theorem runEvent_write (r : Reg) (v : Word) (rest : List Event) (s : State) :
    runEvent (.hostWrite (regOffset r) 4 v) rest s = writeReg r v (setEvents rest s) := by
  simp [runEvent, hostWrite]

/-- A `HostRead` of a register. -/
theorem runEvent_read (r : Reg) (rest : List Event) (s : State) :
    runEvent (.hostRead (regOffset r) 4) rest s = .next (takeRead r (setEvents rest s)) := by
  simp [runEvent, hostRead]

section
variable {s : State} {rest : List Event}

theorem step_commandWrite {w : Word} (hb : s.status.busy = false)
    (he : s.events = .hostWrite 0x00 4 w :: rest) : step s = commandWrite w (setEvents rest s) := by
  simp only [step, he]
  refine (runEvent_write .cmd w rest _).trans ?_
  simp [writeReg, hb]

theorem step_storeReg {r : Reg} {v : Word} (hb : s.status.busy = false) (hr : r ≠ .cmd)
    (he : s.events = lineWr r v :: rest) : step s = .next (storeReg r v (setEvents rest s)) := by
  simp only [step, he]
  refine (runEvent_write r v rest _).trans ?_
  simp [writeReg, hb, hr]

theorem step_takeRead {r : Reg} (he : s.events = lineRd r :: rest) :
    step s = .next (takeRead r (setEvents rest s)) := by
  simp only [step, he]
  exact runEvent_read r rest s

theorem step_nil_busy (hb : s.status.busy = true) (he : s.events = []) : step s = coreStep s := by
  simp [step, he, coreTurn, hb]

theorem step_nil_idle (hb : s.status.busy = false) (he : s.events = []) : step s = .next s := by
  simp [step, he, coreTurn, hb]

theorem step_core_busy (hb : s.status.busy = true) (he : s.events = .core :: rest) :
    step s = coreStep (setEvents rest s) := by
  simp [step, he, runEvent, coreTurn, hb]

theorem step_wait_busy (hb : s.status.busy = true) (he : s.events = .wait :: rest) :
    step s = coreStep s := by
  simp [step, he, runEvent, hb]

theorem step_wait_idle (hb : s.status.busy = false) (he : s.events = .wait :: rest) :
    step s = .next (setEvents rest s) := by
  simp [step, he, runEvent, hb]

theorem step_outPort {b : Bool} (he : s.events = .outPort b :: rest) :
    step s = .next (setOutStalled b (setEvents rest s)) := by
  simp [step, he, runEvent]

end

/-- A `CoreStep` is the transition of the command latched in OPL (`10_state.md` R31). -/
theorem coreStep_of_opl {s : State} {i : Instr} (h : s.opl = i.opcode) : coreStep s = exec i s := by
  rw [coreStep, h, ofOpcode_opcode]

/-! ### The loop steps -/

section
variable {s : State}

theorem stepIterate_round (h : s.idx.toNat < s.rounds.toNat) : stepIterate s = advance s := by
  rw [stepIterate, if_pos ((roundsRemain_iff s).mpr h)]

theorem stepIterate_done (h : s.rounds.toNat ≤ s.idx.toNat) : stepIterate s = complete s := by
  rw [stepIterate, if_neg]
  rw [roundsRemain_iff]
  omega

theorem stepChain_element (h : s.idx.toNat < s.rounds.toNat) (hp : s.outStalled = false)
    (ho : s.idx.toNat < s.params.outSize) : stepChain s = .next (elementStep s) := by
  rw [stepChain, if_pos ((roundsRemain_iff s).mpr h), if_neg (by simp [hp]), if_pos ho]

theorem stepChain_stalled (h : s.idx.toNat < s.rounds.toNat) (hp : s.outStalled = true) :
    stepChain s = .next s := by
  rw [stepChain, if_pos ((roundsRemain_iff s).mpr h), if_pos hp]

theorem stepChain_done (h : s.rounds.toNat ≤ s.idx.toNat) : stepChain s = .next (complete s) := by
  rw [stepChain, if_neg]
  rw [roundsRemain_iff]
  omega

theorem elementStep_advances (h : s.idx.toNat + 1 < s.rounds.toNat) :
    elementStep s = advance (recordCur s) := by
  rw [elementStep, if_pos ((anotherElementFollows_iff (by omega)).mpr h)]

theorem elementStep_last (h : s.idx.toNat + 1 = s.rounds.toNat) :
    elementStep s = bumpIdx (recordCur s) := by
  rw [elementStep, if_neg]
  rw [anotherElementFollows_iff (by omega)]
  omega

end

end Sys2Proof.Machine
end

