-- ==== Sys2Proof/Tests/Slice0.lean ====
section
/-! SUPPORT. Tests with expected results from the spec (`95_test_vectors.md`, cited by their numbers), the
smoke tests of the checks on syntax, and for every obligation with hypotheses a state that meets them. -/

namespace Sys2Proof.Tests

open Sys2Proof.Machine

/-! ### Small states -/

/-- The next state, where there is one. -/
def nextOf : Result → Option State
  | .next t => some t
  | .fault _ => none
  | .refused _ => none

/-- An idle block with MAX_ROUNDS = 8 and a buffer of 8 elements, after reset. -/
def idle (n cap : Word) (q : List Event) : State :=
  { State.reset with rounds := n, capacity := cap, events := q, params := { maxRounds := 8#32, outSize := 8 } }

/-- A block in the middle of the command with opcode `op`, with `CAPACITY = ROUNDS = n` and `IDX = i`. -/
def running (op : BitVec 4) (i n : Word) (q : List Event) : State :=
  { idle n n q with status := statusAccepted Status.reset, opl := op, idx := i }

/-- A block in the middle of CHAIN with ROUNDS = 1, after its one element step. -/
def chainAtEnd : State :=
  { running 5#4 1#32 1#32 [] with mem := outWrite [] 0#32 0#64 }

/-- A CHAIN with its last element of 8 to write, and its output port stalled. -/
def stalledChain : State :=
  { running 5#4 7#32 8#32 [] with outStalled := true }

/-- A rejected block (ILLEGAL_CMD). -/
def rejected (q : List Event) : State :=
  { idle 5#32 4#32 q with status := statusRejected .illegalCmd Status.reset }

/-! ### Well-formedness -/

theorem test_wf_command_word : CmdFields.wf { op := 5#4, zero := 0#28 } = true := by decide

theorem test_illformed_zero_field : CmdFields.wf { op := 4#4, zero := 1#28 } = false := by decide

theorem test_illformed_zero_field_top : CmdFields.wf { op := 5#4, zero := 0x8000000#28 } = false := by decide

theorem test_illformed_op_zero : CmdFields.wf { op := 0#4, zero := 0#28 } = false := by decide

theorem test_illformed_op_six : CmdFields.wf { op := 6#4, zero := 0#28 } = false := by decide

theorem test_wf_access_last_register : Event.wf (.hostRead 0x3C 4) = true := by decide

theorem test_illformed_width : Event.wf (.hostWrite 0x08 2 0#32) = false := by decide

theorem test_illformed_alignment : Event.wf (.hostWrite 0x0A 4 0#32) = false := by decide

theorem test_illformed_offset : Event.wf (.hostRead 0x40 4) = false := by decide

/-- An ill-formed access is refused by the machine too (`20_memory.md` R70). -/
theorem test_illformed_access_refused :
    step (idle 0#32 0#32 [.hostRead 0x40 4]) = .refused (.regAccess 0x40 4) := rfl

/-! ### Decoding, words from `30_encoding.md` R94 and V85 to V90 -/

theorem test_decode_compress : decode 0b00000000000000000000000000000001#32 = .instr .compress := by decide

theorem test_decode_fold : decode 0b00000000000000000000000000000010#32 = .instr .fold := by decide

theorem test_decode_round : decode 0b00000000000000000000000000000011#32 = .instr .round := by decide

theorem test_decode_iterate : decode 0b00000000000000000000000000000100#32 = .instr .iterate := by decide

theorem test_decode_chain : decode 0b00000000000000000000000000000101#32 = .instr .chain := by decide

theorem test_decode_illegal_op :
    decode 0x00000000#32 = .reject (.reservedOpcode 0#4) ∧
    decode 0x00000006#32 = .reject (.reservedOpcode 6#4) ∧
    decode 0x0000000F#32 = .reject (.reservedOpcode 15#4) := by decide

theorem test_decode_illegal_zero_field :
    decode 0x00000014#32 = .reject (.zeroFieldSet 1#28) ∧
    decode 0x80000005#32 = .reject (.zeroFieldSet 0x8000000#28) ∧
    decode 0xFFFFFFFF#32 = .reject (.zeroFieldSet 0xFFFFFFF#28) := by decide

theorem test_decode_table_word :
    decodeTableWord 32 4 = some .iterate ∧ decodeTableWord 32 0x14 = none ∧
    decodeTableWord 64 4 = none := by decide

/-! ### Primitives, V60 to V72 -/

theorem test_add_wraps :
    0xFFFFFFFF#32 + 0x00000001#32 = 0x00000000#32 ∧ 0xEFCDAB89#32 + 0x10C100B6#32 = 0x008EAC3F#32 := by decide

theorem test_rotl :
    rotl32 0xD76AA477#32 7 = 0xB5523BEB#32 ∧ rotl32 0x80000001#32 4 = 0x00000018#32 ∧
    rotl32 0xFFFFFFFF#32 23 = 0xFFFFFFFF#32 := by decide

theorem test_functions :
    md5F 0xFFFF0000#32 0x12345678#32 0x9ABCDEF0#32 = 0x1234DEF0#32 ∧
    md5G 0xFFFF0000#32 0x12345678#32 0x9ABCDEF0#32 = 0x9ABC0008#32 ∧
    md5H 0xFFFF0000#32 0x12345678#32 0x9ABCDEF0#32 = 0x77778888#32 ∧
    md5I 0xFFFF0000#32 0x12345678#32 0x9ABCDEF0#32 = 0xEDCB7777#32 := by decide

/-- V72: the message bytes of a seed. -/
theorem test_message_bytes :
    messageBytes (unpack 0x0123456789ABCDEF#64) =
      [0xEF#8, 0xCD#8, 0xAB#8, 0x89#8, 0x67#8, 0x45#8, 0x23#8, 0x01#8] := by decide

/-- Section 2.4: step 0 of V1, in full. -/
theorem test_md5_step :
    md5Step (block { lo := 0#32, hi := 0#32 }) 0 initialDigest =
      { a := 0x10325476#32, b := 0xA51FE774#32, c := 0xEFCDAB89#32, d := 0x98BADCFE#32 } := by decide

/-- Section 2.4: the first step of each later group. -/
theorem test_md5_groups :
    md5Words (block { lo := 0#32, hi := 0#32 }) 17 =
      { a := 0x81C7E9AA#32, b := 0x95318993#32, c := 0xBCE1EE6F#32, d := 0xB8E8FFE6#32 } ∧
    md5Words (block { lo := 0#32, hi := 0#32 }) 33 =
      { a := 0xE72A8240#32, b := 0xEF31C430#32, c := 0xCA179431#32, d := 0xCF00B4E6#32 } ∧
    md5Words (block { lo := 0#32, hi := 0#32 }) 49 =
      { a := 0x471F94B3#32, b := 0x86D1FA15#32, c := 0xCF94C854#32, d := 0x75302B82#32 } := by decide +kernel

/-- V3: the seed's low half is block word 0. -/
theorem test_compress_halves :
    compress { lo := 1#32, hi := 0#32 } =
      { a := 0xCCECCD33#32, b := 0x3280BECE#32, c := 0xEEDB1F9F#32, d := 0xCB74587F#32 } := by decide +kernel

/-- V1, the printed `md5` of 8 zero bytes, by the reference written separately. -/
theorem test_reference_md5 :
    md5OneBlock (List.replicate 8 0x00#8) =
      [0x7d#8, 0xea#8, 0x36#8, 0x2b#8, 0x3f#8, 0xac#8, 0x8e#8, 0x00#8,
       0x95#8, 0x6a#8, 0x49#8, 0x52#8, 0xa3#8, 0xd4#8, 0xf4#8, 0x74#8] := by decide +kernel

/-! ### One step of each command -/

/-- V5. -/
theorem test_compress_step :
    (nextOf (step { running 1#4 0#32 0#32 [] with seed := { lo := 0x89ABCDEF#32, hi := 0x01234567#32 } })).map
        (fun t => (t.dig, statusWord t.status)) =
      some ({ a := 0xA79A5984#32, b := 0xEFE3C048#32, c := 0x6A0863B6#32, d := 0x97E53039#32 }, 0x02#32) := by
  decide +kernel

/-- V59: COMPRESS ignores ROUNDS. -/
theorem test_compress_accepted :
    (nextOf (step (idle 9#32 0#32 [lineCmd .compress]))).map (fun t => (statusWord t.status, t.opl)) =
      some (0x01#32, 1#4) := by decide

/-- V23: A pairs with C, not with B. -/
theorem test_fold_step :
    (nextOf (step { running 2#4 0#32 0#32 [] with
        dig := { a := 0xFFFFFFFF#32, b := 0xFFFFFFFF#32, c := 0#32, d := 0#32 } })).map
        (fun t => (t.cur, statusWord t.status)) =
      some ({ lo := 0xFFFFFFFF#32, hi := 0xFFFFFFFF#32 }, 0x02#32) := by decide +kernel

/-- V25: the digest of V1. -/
theorem test_fold_digest :
    foldDigest { a := 0x2B36EA7D#32, b := 0x008EAC3F#32, c := 0x52496A95#32, d := 0x74F4D4A3#32 } =
      { lo := 0x797F80E8#32, hi := 0x747A789C#32 } := by decide

/-- V6. -/
theorem test_round_step :
    (nextOf (step { running 3#4 0#32 0#32 [] with seed := { lo := 0x3461879E#32, hi := 0xDD9904D9#32 } })).map
        (fun t => (t.cur, t.dig.a)) =
      some ({ lo := 0x54E06579#32, hi := 0x9F02F536#32 }, 0x1DB7F225#32) := by decide +kernel

/-- V32: the round step of ITERATE with seed 0 and ROUNDS = 1, still busy. -/
theorem test_iterate_step :
    (nextOf (step (running 4#4 0#32 1#32 []))).map (fun t => (pack t.cur, t.idx, statusWord t.status)) =
      some (0x747A789C797F80E8#64, 1#32, 0x01#32) := by decide +kernel

/-- V56: ROUNDS = MAX_ROUNDS + 1. -/
theorem test_iterate_rounds_range :
    (nextOf (step (idle 9#32 0#32 [lineCmd .iterate]))).map (fun t => statusWord t.status) =
      some 0x24#32 := by decide

/-- V43: element 1 in the byte view, and, it being the last, no further round. -/
theorem test_chain_last_element :
    (nextOf (step { running 5#4 1#32 2#32 [] with cur := unpack 0x9F02F53654E06579#64 })).map
        (fun t => (t.mem, t.idx, pack t.cur)) =
      some ([(8, 0x79#8), (9, 0x65#8), (10, 0xE0#8), (11, 0x54#8), (12, 0x36#8), (13, 0xF5#8), (14, 0x02#8),
        (15, 0x9F#8)], 2#32, 0x9F02F53654E06579#64) := by decide +kernel

/-- R247 and U9: a turn of the core of a stalled CHAIN leaves STATUS at 0x01, writes nothing and moves no
counter. -/
theorem test_chain_stalled :
    (nextOf (step stalledChain)).map (fun t => (statusWord t.status, t.mem, t.idx)) =
      some (0x01#32, [], 7#32) := by decide

/-- V55 and V57: ROUNDS_RANGE before CAPACITY, and ROUNDS = MAX_ROUNDS in range. -/
theorem test_chain_fault_priority :
    (nextOf (step (idle 9#32 0#32 [lineCmd .chain]))).map (fun t => statusWord t.status) = some 0x24#32 ∧
    (nextOf (step (idle 8#32 0#32 [lineCmd .chain]))).map (fun t => statusWord t.status) = some 0x34#32 := by
  decide

/-! ### The host, and reset -/

/-- V58: ILLEGAL_CMD before everything. -/
theorem test_illegal_command :
    (nextOf (step (idle 9#32 0#32 [lineCmdw 0x15#32]))).map (fun t => statusWord t.status) = some 0x14#32 := by
  decide

/-- V102, its third write: dropped, STATUS reads 0x09. -/
theorem test_write_while_busy :
    (nextOf (step (running 4#4 0#32 3#32 [lineWr .seedLo 0x1234#32]))).map
        (fun t => (statusWord t.status, t.seed.lo)) = some (0x09#32, 0#32) := by decide

/-- V100, V101 and V107. -/
theorem test_reset_reads_zero :
    regValue .status State.reset = 0#32 ∧ regValue .cmd State.reset = 0#32 ∧
    regValue .seedHi State.reset = 0#32 ∧ regValue .resLo State.reset = 0#32 ∧
    regValue .digD State.reset = 0#32 ∧ regValue .reserved3C State.reset = 0#32 := by decide

/-- V113: reset clears WRLOST. -/
theorem test_reset_clears_wrlost :
    (nextOf (step { running 4#4 0#32 3#32 [.reset] with
        status := statusWriteLost (statusAccepted Status.reset) })).map (fun t => statusWord t.status) =
      some 0#32 := by decide

/-- Each command runs as the first one after reset (V80 to V84): STATUS reads 0x01. -/
theorem test_first_command_after_reset :
    ([1, 2, 3, 4, 5].map fun w =>
      (nextOf (step (State.reset.withFetchWord 32 w))).map fun t => (statusWord t.status, t.opl)) =
      [some (0x01#32, 1#4), some (0x01#32, 2#4), some (0x01#32, 3#4), some (0x01#32, 4#4),
       some (0x01#32, 5#4)] := by decide

/-! ### Witnesses: states that meet the hypotheses of the obligations -/

theorem witness_DecoderSelectsExactlyTheFiveWords :
    (0x00000010#32 : Word).extractLsb' 4 28 ≠ 0#28 ∧ (0x80000000#32 : Word).extractLsb' 4 28 ≠ 0#28 ∧
    (0x1#32 : Word).extractLsb' 4 28 = 0#28 ∧ (0x1#32 : Word).extractLsb' 0 4 = 1#4 ∧
    (0x2#32 : Word).extractLsb' 0 4 = 2#4 ∧ (0x3#32 : Word).extractLsb' 0 4 = 3#4 ∧
    (0x4#32 : Word).extractLsb' 0 4 = 4#4 ∧ (0x5#32 : Word).extractLsb' 0 4 = 5#4 ∧
    (0x0#32 : Word).extractLsb' 4 28 = 0#28 ∧ (0x0#32 : Word).extractLsb' 0 4 = 0#4 ∧
    (0x6#32 : Word).extractLsb' 4 28 = 0#28 ∧ 5#4 < (0x6#32 : Word).extractLsb' 0 4 ∧
    (0xF#32 : Word).extractLsb' 4 28 = 0#28 ∧ 5#4 < (0xF#32 : Word).extractLsb' 0 4 := by decide

theorem witness_StepRunsTheDecodedCommand_command :
    (idle 8#32 8#32 [.hostWrite 0x00 4 5#32]).status.busy = false ∧
    (idle 8#32 8#32 [.hostWrite 0x00 4 5#32]).events = [.hostWrite 0x00 4 5#32] ∧
    decode 5#32 = .instr .chain := by decide

theorem witness_StepRunsTheDecodedCommand_core :
    (running 5#4 0#32 8#32 []).status.busy = true ∧ (running 5#4 0#32 8#32 []).events = [] ∧
    (running 1#4 0#32 8#32 [.core]).status.busy = true ∧ (running 1#4 0#32 8#32 [.core]).events = [.core] ∧
    (running 4#4 0#32 8#32 [.wait]).status.busy = true ∧ (running 4#4 0#32 8#32 [.wait]).events = [.wait] ∧
    Instr.ofOpcode 5#4 = some .chain ∧ Instr.ofOpcode 1#4 = some .compress ∧
    Instr.ofOpcode 4#4 = some .iterate := by decide

/-- The hypotheses of COMPRESS, FOLD and ROUND: an idle block, and a busy one. -/
theorem witness_SingleStepCommands :
    (idle 0#32 0#32 []).status.busy = false ∧ (running 1#4 0#32 0#32 []).status.busy = true ∧
    (running 2#4 0#32 0#32 []).status.busy = true ∧ (running 3#4 0#32 0#32 []).status.busy = true := by decide

theorem witness_IterateAcceptanceChecksRoundsAndLoadsSeed :
    (idle 9#32 0#32 []).status.busy = false ∧
    (idle 9#32 0#32 []).params.maxRounds < (idle 9#32 0#32 []).rounds ∧
    (idle 8#32 0#32 []).status.busy = false ∧
    (idle 8#32 0#32 []).rounds ≤ (idle 8#32 0#32 []).params.maxRounds := by decide

theorem iterateInv_start (n : Word) (h : n ≤ 8#32) : IterateInv (running 4#4 0#32 n []) :=
  ⟨h, BitVec.le_def.mpr (Nat.zero_le _), rfl⟩

/-- The acceptance clauses of the step statements of ITERATE and CHAIN. -/
theorem witness_AcceptanceEstablishesTheInvariant :
    (idle 8#32 8#32 []).status.busy = false ∧
    (idle 8#32 8#32 []).rounds ≤ (idle 8#32 8#32 []).params.maxRounds ∧
    (idle 8#32 8#32 []).rounds ≤ (idle 8#32 8#32 []).capacity := by decide

theorem witness_IterateStepIsOneRoundOrCompletes :
    (running 4#4 7#32 8#32 []).status.busy = true ∧
    (running 4#4 7#32 8#32 []).idx < (running 4#4 7#32 8#32 []).rounds ∧
    (running 4#4 8#32 8#32 []).status.busy = true ∧
    (running 4#4 8#32 8#32 []).rounds ≤ (running 4#4 8#32 8#32 []).idx ∧
    IterateInv (running 4#4 0#32 8#32 []) ∧ IterateInv (running 4#4 0#32 0#32 []) :=
  ⟨by decide, by decide, by decide, by decide, iterateInv_start _ (by decide), iterateInv_start _ (by decide)⟩

theorem witness_ChainAcceptanceChecksRoundsThenCapacity :
    (idle 9#32 0#32 []).status.busy = false ∧
    (idle 9#32 0#32 []).params.maxRounds < (idle 9#32 0#32 []).rounds ∧
    (idle 8#32 7#32 []).status.busy = false ∧
    (idle 8#32 7#32 []).rounds ≤ (idle 8#32 7#32 []).params.maxRounds ∧
    (idle 8#32 7#32 []).capacity < (idle 8#32 7#32 []).rounds ∧
    (idle 8#32 8#32 []).status.busy = false ∧
    (idle 8#32 8#32 []).rounds ≤ (idle 8#32 8#32 []).params.maxRounds ∧
    (idle 8#32 8#32 []).rounds ≤ (idle 8#32 8#32 []).capacity := by decide

theorem chainInv_start (n : Word) (h : n ≤ 8#32) : ChainInv (running 5#4 0#32 n []) :=
  ⟨h, BitVec.le_def.mpr (Nat.le_refl _), BitVec.le_def.mpr (Nat.zero_le _),
    by rw [show (running 5#4 0#32 n []).idx.toNat = 0 from rfl, Nat.zero_min]; rfl,
    fun _ hi => absurd hi (Nat.not_lt_zero _)⟩

theorem chainInv_end : ChainInv chainAtEnd := by
  refine ⟨by decide, by decide, by decide, rfl, fun i hi => ?_⟩
  have : i = 0 := by
    have h1 : chainAtEnd.idx.toNat = 1 := rfl
    omega
  subst this
  decide

/-- The element step before the last, the last, the completing step, and the last element of a buffer. -/
theorem witness_ChainStepRecordsThenAdvances :
    (running 5#4 6#32 8#32 []).status.busy = true ∧
    (running 5#4 6#32 8#32 []).idx < (running 5#4 6#32 8#32 []).rounds ∧
    (running 5#4 6#32 8#32 []).idx.toNat < (running 5#4 6#32 8#32 []).params.outSize ∧
    (running 5#4 6#32 8#32 []).outStalled = false ∧
    (running 5#4 6#32 8#32 []).idx + 1#32 < (running 5#4 6#32 8#32 []).rounds ∧
    (running 5#4 7#32 8#32 []).status.busy = true ∧
    (running 5#4 7#32 8#32 []).idx < (running 5#4 7#32 8#32 []).rounds ∧
    (running 5#4 7#32 8#32 []).idx.toNat < (running 5#4 7#32 8#32 []).params.outSize ∧
    (running 5#4 7#32 8#32 []).outStalled = false ∧
    (running 5#4 7#32 8#32 []).rounds ≤ (running 5#4 7#32 8#32 []).idx + 1#32 ∧
    (running 5#4 8#32 8#32 []).status.busy = true ∧
    (running 5#4 8#32 8#32 []).rounds ≤ (running 5#4 8#32 8#32 []).idx := by decide

theorem witness_ChainStepRecordsThenAdvances_invariant :
    (ChainInv (running 5#4 0#32 8#32 []) ∧ BufferPremise (running 5#4 0#32 8#32 [])) ∧
    (ChainInv chainAtEnd ∧ BufferPremise chainAtEnd) :=
  ⟨⟨chainInv_start _ (by decide), Nat.le_refl 8⟩, ⟨chainInv_end, (by decide : 1 ≤ 8)⟩⟩

/-- The invariant holds in the middle of each of the five commands. -/
theorem running_inv :
    Inv (running 1#4 0#32 8#32 []) ∧ Inv (running 2#4 0#32 8#32 []) ∧ Inv (running 3#4 0#32 8#32 []) ∧
    Inv (running 4#4 0#32 8#32 []) ∧ Inv (running 5#4 0#32 8#32 []) ∧ Inv chainAtEnd := by
  have hs : StatusInv (statusAccepted Status.reset) := by unfold StatusInv; decide
  exact ⟨⟨hs, fun _ => .inl ⟨rfl, rfl⟩, rfl⟩, ⟨hs, fun _ => .inr (.inl ⟨rfl, rfl⟩), rfl⟩,
    ⟨hs, fun _ => .inr (.inr (.inl ⟨rfl, rfl⟩)), rfl⟩,
    ⟨hs, fun _ => .inr (.inr (.inr (.inl ⟨rfl, iterateInv_start _ (by decide)⟩))), rfl⟩,
    ⟨hs, fun _ => .inr (.inr (.inr (.inr ⟨rfl, chainInv_start _ (by decide)⟩))), rfl⟩,
    ⟨hs, fun _ => .inr (.inr (.inr (.inr ⟨rfl, chainInv_end⟩))), by decide⟩⟩

theorem witness_ChainStopsOnlyOutsideThePlatformBuffer :
    (running 5#4 8#32 9#32 []).status.busy = true ∧
    (running 5#4 8#32 9#32 []).idx < (running 5#4 8#32 9#32 []).rounds ∧
    (running 5#4 8#32 9#32 []).outStalled = false ∧
    (running 5#4 8#32 9#32 []).params.outSize ≤ (running 5#4 8#32 9#32 []).idx.toNat ∧
    Inv (running 5#4 0#32 8#32 []) ∧ BufferPremise (running 5#4 0#32 8#32 []) ∧
    Instr.ofOpcode (running 5#4 0#32 8#32 []).opl = some .chain ∧
    (running 5#4 0#32 8#32 []).status.busy = true ∧ (idle 9#32 0#32 []).status.busy = false :=
  ⟨rfl, by decide, rfl, by decide, running_inv.2.2.2.2.1, Nat.le_refl 8, rfl, rfl, rfl⟩

theorem witness_OnlyAnElementStepOfChainWritesOut :
    exec .iterate (running 4#4 8#32 8#32 []) = .next (complete (running 4#4 8#32 8#32 [])) ∧
    exec .chain (idle 9#32 0#32 []) = .next (reject .roundsRange (idle 9#32 0#32 [])) ∧
    (running 5#4 8#32 8#32 []).rounds ≤ (running 5#4 8#32 8#32 []).idx ∧
    exec .chain (running 5#4 8#32 8#32 []) = .next (complete (running 5#4 8#32 8#32 [])) ∧
    exec .chain stalledChain = .next stalledChain ∧ stalledChain.outStalled = true ∧
    exec .chain (running 5#4 7#32 8#32 []) = .next (bumpIdx (recordCur (running 5#4 7#32 8#32 []))) ∧
    (running 5#4 7#32 8#32 []).idx < (running 5#4 7#32 8#32 []).rounds ∧
    (running 5#4 7#32 8#32 []).outStalled = false ∧
    56 < elementAddr (running 5#4 7#32 8#32 []).idx + 8 ∧
    elementAddr (running 5#4 7#32 8#32 []).idx = 56 ∧ elementAddr (running 5#4 7#32 8#32 []).idx + 8 ≤ 64 :=
  ⟨rfl, rfl, by decide, rfl, rfl, rfl, rfl, by decide, rfl, by decide, by decide, by decide⟩

/-- COMPRESS, FOLD and ROUND as whole commands. -/
theorem witness_SingleStepWholeCommands :
    (idle 0#32 0#32 [lineCmd .compress, .wait]).status.busy = false ∧
    (idle 0#32 0#32 [lineCmd .compress, .wait]).events = lineCmd .compress :: .wait :: [] ∧
    (idle 0#32 0#32 [lineCmd .fold, .wait, .core]).events = lineCmd .fold :: .wait :: [.core] ∧
    (idle 0#32 0#32 [lineCmd .round, .wait]).events = lineCmd .round :: .wait :: [] := by decide

theorem witness_IterateWholeCommand :
    (idle 8#32 0#32 [lineCmd .iterate, .wait]).status.busy = false ∧
    (idle 8#32 0#32 [lineCmd .iterate, .wait]).events = lineCmd .iterate :: .wait :: [] ∧
    (idle 8#32 0#32 [lineCmd .iterate, .wait]).rounds ≤
      (idle 8#32 0#32 [lineCmd .iterate, .wait]).params.maxRounds := by decide

theorem witness_ChainWholeCommand :
    ((idle 8#32 8#32 [lineCmd .chain, .wait]).status.busy = false ∧
    (idle 8#32 8#32 [lineCmd .chain, .wait]).events = lineCmd .chain :: .wait :: [] ∧
    (idle 8#32 8#32 [lineCmd .chain, .wait]).rounds ≤
      (idle 8#32 8#32 [lineCmd .chain, .wait]).params.maxRounds ∧
    (idle 8#32 8#32 [lineCmd .chain, .wait]).rounds ≤ (idle 8#32 8#32 [lineCmd .chain, .wait]).capacity ∧
    (idle 8#32 8#32 [lineCmd .chain, .wait]).outStalled = false ∧
    8 ≤ (idle 8#32 8#32 [lineCmd .chain, .wait]).rounds.toNat) ∧
    BufferPremise (idle 8#32 8#32 [lineCmd .chain, .wait]) := ⟨by decide, Nat.le_refl 8⟩

theorem witness_IterateCompletesAfterRoundsPlusOneSteps :
    (idle 8#32 0#32 [lineCmd .iterate]).status.busy = false ∧
    (idle 8#32 0#32 [lineCmd .iterate]).events = [lineCmd .iterate] ∧
    (idle 8#32 0#32 [lineCmd .iterate]).rounds ≤ (idle 8#32 0#32 [lineCmd .iterate]).params.maxRounds ∧
    8 ≤ (idle 8#32 0#32 [lineCmd .iterate]).rounds.toNat := by decide

theorem witness_CommandsAgreeWithRound :
    (idle 0#32 0#32 []).status.busy = false ∧ 1#32 ≤ (idle 0#32 0#32 []).params.maxRounds ∧
    2#32 ≤ (idle 0#32 0#32 []).params.maxRounds ∧ 2 ≤ (idle 0#32 0#32 []).params.outSize ∧
    (idle 0#32 0#32 []).outStalled = false := by decide

theorem witness_IterateComposes :
    (idle 0#32 0#32 []).status.busy = false ∧
    (5#32 : Word).toNat + (3#32 : Word).toNat ≤ (idle 0#32 0#32 []).params.maxRounds.toNat ∧
    (idle 5#32 0#32 []).seed = (rejected []).seed ∧ (idle 5#32 0#32 []).rounds = (rejected []).rounds ∧
    (rejected []).status.busy = false ∧ (idle 5#32 0#32 []).rounds ≤ (idle 5#32 0#32 []).params.maxRounds ∧
    (rejected []).rounds ≤ (rejected []).params.maxRounds := by decide

theorem witness_ChainElementsAreIterates :
    ((idle 8#32 8#32 []).status.busy = false ∧
    (idle 8#32 8#32 []).rounds ≤ (idle 8#32 8#32 []).params.maxRounds ∧
    (idle 8#32 8#32 []).rounds ≤ (idle 8#32 8#32 []).capacity ∧ (idle 8#32 8#32 []).outStalled = false ∧
    7#32 < (idle 8#32 8#32 []).rounds) ∧
    BufferPremise (idle 8#32 8#32 []) := ⟨by decide, Nat.le_refl 8⟩

theorem witness_ComputeIterateReturnsTheIterate :
    (idle 0#32 0#32 (computeIterate 0#64 8#32)).status.busy = false ∧
    (idle 0#32 0#32 (computeIterate 0#64 8#32)).events = computeIterate 0#64 8#32 ++ [] ∧
    8#32 ≤ (idle 0#32 0#32 (computeIterate 0#64 8#32)).params.maxRounds ∧
    (idle 0#32 0#32 (computeIterate 0#64 9#32)).params.maxRounds < 9#32 := by decide

theorem witness_OperandWriteStoresTheWholeWord : (rejected []).status.busy = false := by decide

/-- The three cases of computeChain, each at its boundary. -/
theorem witness_ComputeChainWritesTheChain :
    (idle 0#32 0#32 (computeChain 8#32 0#64 8#32)).status.busy = false ∧
    (idle 0#32 0#32 (computeChain 8#32 0#64 8#32)).events = computeChain 8#32 0#64 8#32 ++ [] ∧
    8#32 ≤ (idle 0#32 0#32 []).params.maxRounds ∧ (8#32 : Word) ≤ 8#32 ∧
    (8#32 : Word).toNat ≤ (idle 0#32 0#32 []).params.outSize ∧
    (idle 0#32 0#32 (computeChain 8#32 0#64 8#32)).outStalled = false ∧ (7#32 : Word) < 8#32 ∧
    (idle 0#32 0#32 []).params.maxRounds < 9#32 := by decide

theorem witness_StepStopsOnlyAtAnUndefinedAccess :
    Inv { running 5#4 0#32 8#32 [] with events := [.hostRead 0x3E 4] } ∧
    BufferPremise { running 5#4 0#32 8#32 [] with events := [.hostRead 0x3E 4] } ∧
    Inv (running 5#4 0#32 8#32 []) ∧ BufferPremise (running 5#4 0#32 8#32 []) :=
  ⟨⟨running_inv.2.2.2.2.1.status, running_inv.2.2.2.2.1.running, rfl⟩, Nat.le_refl 8,
    running_inv.2.2.2.2.1, Nat.le_refl 8⟩

theorem witness_StepTableIsTheFormulas :
    stepTable[0]? = some { fn := .f, index := 0, shift := 7, const := 0xD76AA478#32 } ∧
    stepTable[63]? = some { fn := .i, index := 9, shift := 21, const := 0xEB86D391#32 } := by decide

theorem witness_WriteToReadOnlyOrReservedIsIgnored :
    (idle 0#32 0#32 []).status.busy = false ∧ 0x04 ∈ [0x04, 0x18, 0x1C, 0x30, 0x34, 0x38, 0x3C] ∧
    0x3C ∈ [0x04, 0x18, 0x1C, 0x30, 0x34, 0x38, 0x3C] := by decide

theorem witness_WriteWhileBusyIsDropped :
    (running 4#4 0#32 3#32 []).status.busy = true ∧ (0 % 4 = 0 ∧ 0 < 0x40) ∧
    (0x3C % 4 = 0 ∧ 0x3C < 0x40) := by decide

theorem witness_HostReadReturnsTheTable :
    0x00 ∈ [0x00, 0x30, 0x34, 0x38, 0x3C] ∧ 0x3C ∈ [0x00, 0x30, 0x34, 0x38, 0x3C] ∧
    (idle 5#32 4#32 []).status.busy = false ∧ (running 4#4 0#32 3#32 []).status.busy = true ∧
    (0x14, 4#32) ∈ [(0x08, (idle 5#32 4#32 []).seed.lo), (0x0C, (idle 5#32 4#32 []).seed.hi),
      (0x10, (idle 5#32 4#32 []).rounds), (0x14, (idle 5#32 4#32 []).capacity)] ∧
    (0x2C, 0#32) ∈ [(0x18, (idle 5#32 4#32 []).cur.lo), (0x1C, (idle 5#32 4#32 []).cur.hi),
      (0x20, (idle 5#32 4#32 []).dig.a), (0x24, (idle 5#32 4#32 []).dig.b),
      (0x28, (idle 5#32 4#32 []).dig.c), (0x2C, (idle 5#32 4#32 []).dig.d)] := by decide

theorem witness_UndefinedRegisterAccessIsRefused :
    ¬ (4 = 4 ∧ 0x40 % 4 = 0 ∧ 0x40 < 0x40) ∧ ¬ (4 = 4 ∧ 0x3E % 4 = 0 ∧ 0x3E < 0x40) ∧
    ¬ (2 = 4 ∧ 0x08 % 4 = 0 ∧ 0x08 < 0x40) ∧ (4 = 4 ∧ 0x3C % 4 = 0 ∧ 0x3C < 0x40) := by decide

theorem witness_StatusWordHasTheLayout :
    StatusInv Status.reset ∧ Status.reset.wrlost = false ∧
    StatusInv (statusWriteLost (statusAccepted Status.reset)) ∧
    (statusWriteLost (statusAccepted Status.reset)).wrlost = true := by
  unfold StatusInv
  decide

theorem witness_IllegalWordChangesOnlyStatus :
    (idle 5#32 4#32 []).status.busy = false ∧ (0x14#32 : Word).extractLsb' 4 28 ≠ 0#28 ∧
    (0x0#32 : Word).extractLsb' 0 4 = 0#4 ∧ 6#4 ≤ (0x6#32 : Word).extractLsb' 0 4 ∧
    6#4 ≤ (0xF#32 : Word).extractLsb' 0 4 := by decide

theorem witness_FaultIsReadInStatusByPriority :
    (idle 9#32 0#32 [lineCmdw 0x6#32, lineRd .status]).status.busy = false ∧
    (idle 9#32 0#32 [lineCmdw 0x6#32, lineRd .status]).events =
      .hostWrite 0x00 4 0x6#32 :: lineRd .status :: [] ∧
    0x6#32 ∉ [0x1#32, 0x2#32, 0x3#32, 0x4#32, 0x5#32] ∧
    0x5#32 ∈ [0x4#32, 0x5#32] ∧ (idle 9#32 0#32 []).params.maxRounds < (idle 9#32 0#32 []).rounds ∧
    (idle 8#32 7#32 []).rounds ≤ (idle 8#32 7#32 []).params.maxRounds ∧
    (idle 8#32 7#32 []).capacity < (idle 8#32 7#32 []).rounds := by decide

theorem witness_FaultStaysUntilTheNextCommand_other :
    (rejected [lineWr .capacity 5#32]).status.busy = false ∧
    step (rejected [lineWr .capacity 5#32]) = .next { rejected [] with capacity := 5#32 } ∧
    (∀ (w : Word) (rest : List Event),
      (rejected [lineWr .capacity 5#32]).events ≠ .hostWrite 0x00 4 w :: rest) ∧
    (∀ rest : List Event, (rejected [lineWr .capacity 5#32]).events ≠ .reset :: rest) :=
  ⟨rfl, rfl, fun w rest h => by simp [rejected, idle, lineWr, regOffset] at h,
    fun rest h => by simp [rejected, idle, lineWr] at h⟩

theorem witness_FaultStaysUntilTheNextCommand_command :
    (rejected [lineCmd .fold]).status.busy = false ∧
    (rejected [lineCmd .fold]).events = .hostWrite 0x00 4 (encode .fold) :: [] ∧
    step (rejected [lineCmd .fold]) = .next (accept 2#4 (rejected [])) ∧
    (rejected [lineCmd .chain, lineCmd .chain]).status.busy = false ∧
    (rejected [lineCmd .chain, lineCmd .chain]).events =
      .hostWrite 0x00 4 (encode .chain) :: .hostWrite 0x00 4 (encode .chain) :: [] ∧
    step (rejected [lineCmd .chain, lineCmd .chain]) =
      .next (reject .capacity (rejected [lineCmd .chain])) ∧
    (reject .capacity (rejected [lineCmd .chain])).status.err = true := ⟨rfl, rfl, rfl, rfl, rfl, rfl, rfl⟩

theorem witness_ResetLeavesTheTableValues :
    chainAtEnd.status.busy = true ∧ { chainAtEnd with events := [.reset] }.events = .reset :: [] ∧
    (idle 5#32 4#32 []).status.busy = false ∧ (idle 5#32 4#32 []).events = [] ∧
    (rejected [.core]).status.busy = false ∧ (rejected [.core]).events = .core :: [] := by decide

theorem witness_ResetAbandonsAChainAfterAPrefix_any :
    (running 4#4 2#32 8#32 [.reset]).status.busy = true ∧ (running 4#4 2#32 8#32 [.reset]).events = [.reset] := by
  decide

theorem witness_ResetAbandonsAChainAfterAPrefix :
    ((idle 3#32 3#32 [lineCmd .chain, .core, .core, .reset]).status.busy = false ∧
    (idle 3#32 3#32 [lineCmd .chain, .core, .core, .reset]).rounds ≤
      (idle 3#32 3#32 [lineCmd .chain, .core, .core, .reset]).params.maxRounds ∧
    (idle 3#32 3#32 [lineCmd .chain, .core, .core, .reset]).rounds ≤
      (idle 3#32 3#32 [lineCmd .chain, .core, .core, .reset]).capacity ∧
    (idle 3#32 3#32 [lineCmd .chain, .core, .core, .reset]).outStalled = false ∧
    2 ≤ (idle 3#32 3#32 [lineCmd .chain, .core, .core, .reset]).rounds.toNat ∧
    (idle 3#32 3#32 [lineCmd .chain, .core, .core, .reset]).events =
      lineCmd .chain :: (List.replicate 2 .core ++ [.reset])) ∧
    BufferPremise (idle 3#32 3#32 [lineCmd .chain, .core, .core, .reset]) :=
  ⟨by decide, (by decide : 3 ≤ 8)⟩

theorem witness_StepKeepsTheInvariant :
    (Inv chainAtEnd ∧ step chainAtEnd = .next (complete chainAtEnd)) ∧
    (Inv (running 4#4 0#32 8#32 []) ∧
      step (running 4#4 0#32 8#32 []) = .next (advance (running 4#4 0#32 8#32 []))) :=
  ⟨⟨running_inv.2.2.2.2.2, rfl⟩, ⟨running_inv.2.2.2.1,
    (step_nil_busy rfl rfl).trans ((coreStep_of_opl (i := .iterate) rfl).trans
      ((exec_iterate_busy rfl).trans (congrArg Host.Outcome.next (stepIterate_round (by decide)))))⟩⟩

theorem witness_StatusInvariantsArePreserved :
    StatusInv (rejected [lineCmd .fold]).status ∧ OneOfBusyDoneErr (rejected [lineCmd .fold]).status ∧
    (rejected [lineCmd .fold]).status.busy = false ∧
    (rejected [lineCmd .fold]).events = .hostWrite 0x00 4 (encode .fold) :: [] ∧
    step (rejected [lineCmd .fold]) = .next (accept 2#4 (rejected [])) ∧
    (∀ rest : List Event, (rejected [lineCmd .fold]).events ≠ .reset :: rest) :=
  ⟨by unfold StatusInv; decide, by unfold OneOfBusyDoneErr; decide, rfl, rfl, rfl,
    fun rest h => by simp [rejected, idle, lineCmd] at h⟩

theorem witness_StatusInvariantsArePreserved_before :
    (idle 5#32 4#32 [lineWr .rounds 7#32]).status.busy = false ∧
    (idle 5#32 4#32 [lineWr .rounds 7#32]).status.done = false ∧
    (idle 5#32 4#32 [lineWr .rounds 7#32]).status.err = false ∧
    step (idle 5#32 4#32 [lineWr .rounds 7#32]) = .next (storeReg .rounds 7#32 (idle 5#32 4#32 [])) ∧
    (∀ (w : Word) (rest : List Event),
      (idle 5#32 4#32 [lineWr .rounds 7#32]).events ≠ .hostWrite 0x00 4 w :: rest) :=
  ⟨rfl, rfl, rfl, rfl, fun w rest h => by simp [idle, lineWr, regOffset] at h⟩

/-- One write to each of the four operand registers, to an idle block. -/
theorem witness_OperandRegistersPersist :
    step (idle 5#32 4#32 [lineWr .seedLo 7#32]) =
      .next (storeReg .seedLo 7#32 (idle 5#32 4#32 [])) ∧
    (storeReg .seedLo 7#32 (idle 5#32 4#32 [])).seed.lo ≠ (idle 5#32 4#32 []).seed.lo ∧
    step (idle 5#32 4#32 [lineWr .seedHi 7#32]) =
      .next (storeReg .seedHi 7#32 (idle 5#32 4#32 [])) ∧
    (storeReg .seedHi 7#32 (idle 5#32 4#32 [])).seed.hi ≠ (idle 5#32 4#32 []).seed.hi ∧
    step (idle 5#32 4#32 [lineWr .rounds 7#32]) =
      .next (storeReg .rounds 7#32 (idle 5#32 4#32 [])) ∧
    (storeReg .rounds 7#32 (idle 5#32 4#32 [])).rounds ≠ (idle 5#32 4#32 []).rounds ∧
    step (idle 5#32 4#32 [lineWr .capacity 7#32]) =
      .next (storeReg .capacity 7#32 (idle 5#32 4#32 [])) ∧
    (storeReg .capacity 7#32 (idle 5#32 4#32 [])).capacity ≠ (idle 5#32 4#32 []).capacity ∧
    (∀ (r : Reg) (v : Word) (rest : List Event), [lineWr r v] ≠ .reset :: rest) :=
  ⟨rfl, by decide, rfl, by decide, rfl, by decide, rfl, by decide, fun r v rest h => by simp [lineWr] at h⟩

/-- The core's turn of ITERATE and of CHAIN with a round left, in each of the three kinds of turn. -/
theorem witness_IdxCountsTheStepsOfTheLoop_converse :
    ((running 5#4 7#32 8#32 []).status.busy = true ∧ (running 5#4 7#32 8#32 []).opl = 5#4 ∧
      (running 5#4 7#32 8#32 []).outStalled = false ∧
      (running 5#4 7#32 8#32 []).idx < (running 5#4 7#32 8#32 []).rounds ∧
      step (running 5#4 7#32 8#32 []) = .next (bumpIdx (recordCur (running 5#4 7#32 8#32 [])))) ∧
    ((running 5#4 7#32 8#32 [.core]).events = .core :: [] ∧
      step (running 5#4 7#32 8#32 [.core]) = .next (bumpIdx (recordCur (running 5#4 7#32 8#32 [])))) ∧
    ((running 4#4 0#32 1#32 [.wait]).events = .wait :: [] ∧ (running 4#4 0#32 1#32 [.wait]).opl = 4#4 ∧
      (running 4#4 0#32 1#32 [.wait]).idx < (running 4#4 0#32 1#32 [.wait]).rounds ∧
      step (running 4#4 0#32 1#32 [.wait]) = .next (advance (running 4#4 0#32 1#32 [.wait]))) :=
  ⟨⟨rfl, rfl, rfl, by decide, rfl⟩, ⟨rfl, rfl⟩, rfl, rfl, by decide,
    (step_wait_busy (rest := []) rfl rfl).trans ((coreStep_of_opl (i := .iterate) rfl).trans
      ((exec_iterate_busy rfl).trans (congrArg Host.Outcome.next (stepIterate_round (by decide)))))⟩

theorem witness_OplIsLatchedAtAcceptance :
    step (idle 8#32 8#32 [lineCmd .chain]) = .next (loadSeed (accept 5#4 (idle 8#32 8#32 []))) ∧
    (loadSeed (accept 5#4 (idle 8#32 8#32 []))).opl ≠ (idle 8#32 8#32 [lineCmd .chain]).opl ∧
    (∀ rest : List Event, (idle 8#32 8#32 [lineCmd .chain]).events ≠ .reset :: rest) ∧
    (running 4#4 0#32 8#32 []).status.busy = true ∧ (running 4#4 0#32 8#32 []).events = [] ∧
    Instr.ofOpcode (running 4#4 0#32 8#32 []).opl = some .iterate ∧
    (idle 8#32 8#32 [lineCmd .chain]).status.busy = false :=
  ⟨rfl, by decide, fun rest h => by simp [idle, lineCmd] at h, rfl, rfl, rfl, rfl⟩

/-- An acceptance that sets IDX back to 0, and the last element step of CHAIN. -/
theorem witness_IdxCountsTheStepsOfTheLoop :
    step { idle 8#32 8#32 [lineCmd .fold] with idx := 8#32 } =
      .next (accept 2#4 { idle 8#32 8#32 [] with idx := 8#32 }) ∧
    step (running 5#4 7#32 8#32 []) = .next (bumpIdx (recordCur (running 5#4 7#32 8#32 []))) ∧
    (bumpIdx (recordCur (running 5#4 7#32 8#32 []))).idx ≠ (running 5#4 7#32 8#32 []).idx ∧
    (∀ rest : List Event, (running 5#4 7#32 8#32 []).events ≠ .reset :: rest) ∧
    Inv chainAtEnd ∧ chainAtEnd.status.busy = true :=
  ⟨rfl, rfl, by decide, fun rest h => by simp [running, idle] at h, running_inv.2.2.2.2.2, rfl⟩

/-- The step of FOLD changes CUR, and a host write while idle changes DIG. -/
theorem witness_ResultRegistersChangeOnlyByTheirCommands :
    step { running 2#4 0#32 0#32 [] with dig := { a := 1#32, b := 0#32, c := 0#32, d := 0#32 } } =
      .next (stepFold { running 2#4 0#32 0#32 [] with dig := { a := 1#32, b := 0#32, c := 0#32, d := 0#32 } }) ∧
    (stepFold { running 2#4 0#32 0#32 [] with dig := { a := 1#32, b := 0#32, c := 0#32, d := 0#32 } }).cur ≠
      (running 2#4 0#32 0#32 []).cur ∧
    step (idle 5#32 4#32 [lineWr .digD 7#32]) = .next (storeReg .digD 7#32 (idle 5#32 4#32 [])) ∧
    (storeReg .digD 7#32 (idle 5#32 4#32 [])).dig ≠ (idle 5#32 4#32 []).dig ∧
    (∀ rest : List Event, [lineWr .digD 7#32] ≠ .reset :: rest) :=
  ⟨rfl, by decide, rfl, by decide, fun rest h => by simp [lineWr] at h⟩

theorem witness_WriteLostIsSticky :
    step (running 4#4 0#32 3#32 [lineWr .rounds 1#32]) = .next (dropWrite (running 4#4 0#32 3#32 [])) ∧
    (running 4#4 0#32 3#32 [lineWr .rounds 1#32]).status.wrlost = false ∧
    (dropWrite (running 4#4 0#32 3#32 [])).status.wrlost = true ∧
    step (dropWrite (running 4#4 8#32 8#32 [])) = .next (complete (dropWrite (running 4#4 8#32 8#32 []))) ∧
    (dropWrite (running 4#4 8#32 8#32 [])).status.wrlost = true ∧
    (∀ rest : List Event, (dropWrite (running 4#4 8#32 8#32 [])).events ≠ .reset :: rest) :=
  ⟨rfl, rfl, rfl, rfl, rfl, fun rest h => by simp [dropWrite, running, idle] at h⟩

theorem witness_OnlyCompletionOrResetEndsBusy :
    (running 4#4 8#32 8#32 []).status.busy = true ∧
    step (running 4#4 8#32 8#32 []) = .next (complete (running 4#4 8#32 8#32 [])) ∧
    (complete (running 4#4 8#32 8#32 [])).status.busy = false ∧
    step (running 4#4 2#32 8#32 [.reset]) = .next (resetBlock (running 4#4 2#32 8#32 [])) ∧
    (resetBlock (running 4#4 2#32 8#32 [])).status.busy = false := ⟨rfl, rfl, rfl, rfl, rfl⟩

theorem witness_OutWritesStayBelowCapacity :
    Inv (running 5#4 0#32 1#32 []) ∧
    step (running 5#4 0#32 1#32 []) = .next (bumpIdx (recordCur (running 5#4 0#32 1#32 []))) ∧
    readByte (bumpIdx (recordCur (running 5#4 0#32 1#32 []))).mem 7 ≠
      readByte (running 5#4 0#32 1#32 []).mem 7 :=
  ⟨⟨by unfold StatusInv; decide, fun _ => .inr (.inr (.inr (.inr ⟨rfl, chainInv_start _ (by decide)⟩))), rfl⟩,
    rfl, by decide⟩

/-- Two states that differ in SEED. -/
theorem witness_StepsDoNotBranchOnData :
    SameShape (running 3#4 0#32 8#32 [])
      { running 3#4 0#32 8#32 [] with seed := { lo := 1#32, hi := 2#32 } } :=
  ⟨rfl, rfl, rfl, rfl, rfl, rfl, rfl, rfl, rfl, rfl⟩

theorem witness_EveryCommandInProgressCompletes :
    Inv (running 5#4 0#32 8#32 []) ∧ BufferPremise (running 5#4 0#32 8#32 []) ∧
    (running 5#4 0#32 8#32 []).status.busy = true ∧ (running 5#4 0#32 8#32 []).events = [] ∧
    (running 5#4 0#32 8#32 []).outStalled = false :=
  ⟨running_inv.2.2.2.2.1, Nat.le_refl 8, rfl, rfl, rfl⟩

/-- The same CHAIN with its port stalled, about to go on. -/
theorem witness_EveryCommandInProgressCompletes_resumed :
    Inv { running 5#4 0#32 8#32 [.outPort false] with outStalled := true } ∧
    BufferPremise { running 5#4 0#32 8#32 [.outPort false] with outStalled := true } ∧
    (running 5#4 0#32 8#32 [.outPort false]).status.busy = true ∧
    (running 5#4 0#32 8#32 [.outPort false]).events = [.outPort false] :=
  ⟨⟨running_inv.2.2.2.2.1.status, running_inv.2.2.2.2.1.running, rfl⟩, Nat.le_refl 8, rfl, rfl⟩

/-- A stalled CHAIN with its last element to write, its port let go, and a FOLD beside it. -/
theorem witness_StalledOutputPortHangsChain :
    stalledChain.status.busy = true ∧ stalledChain.opl = 5#4 ∧ stalledChain.idx < stalledChain.rounds ∧
    stalledChain.outStalled = true ∧ stalledChain.events = [] ∧
    { stalledChain with events := [.wait] }.events = .wait :: [] ∧
    step { stalledChain with events := [.outPort false] } = .next (running 5#4 7#32 8#32 []) ∧
    (running 5#4 7#32 8#32 []).outStalled ≠ stalledChain.outStalled ∧
    exec .fold (running 2#4 0#32 8#32 []) = .next (stepFold (running 2#4 0#32 8#32 [])) ∧
    (idle 8#32 8#32 []).status.busy = false ∧
    exec .chain (idle 8#32 8#32 []) = .next (loadSeed (accept 5#4 (idle 8#32 8#32 []))) ∧
    (running 5#4 8#32 8#32 []).rounds ≤ (running 5#4 8#32 8#32 []).idx ∧
    exec .chain (running 5#4 8#32 8#32 []) = .next (complete (running 5#4 8#32 8#32 [])) :=
  ⟨rfl, rfl, by decide, rfl, rfl, rfl, rfl, by decide, rfl, rfl, rfl, by decide, rfl⟩

theorem witness_OutWriteReplacesOneElement :
    6 ≠ (7#32 : Word).toNat ∧ 7 < 8 ∧ 55 < 8 * (7#32 : Word).toNat ∧ 8 * (7#32 : Word).toNat + 8 ≤ 64 ∧
    Memory.wf chainAtEnd.mem = true := by decide

theorem witness_RotationMovesEveryBit : (1 ≤ 31 ∧ 31 ≤ 31 ∧ 31 < 32) ∧ (1 ≤ 1 ∧ 1 ≤ 31 ∧ 0 < 32) ∧ 63 < 64 := by
  decide

/-- The bit functions and the block words: the last index of their ranges. -/
theorem witness_IndexRanges : 31 < 32 ∧ 63 < 64 := by decide

end Sys2Proof.Tests
end

section
/-! PROOFS. The state family: what a step can do to OPL and to WRLOST, and Reset. -/

namespace Sys2Proof.Machine

/-! ### One step: the kinds of next event that Laws/Steps.lean does not list -/

theorem step_core_idle {s : State} {rest : List Event} (hb : s.status.busy = false)
    (he : s.events = .core :: rest) : step s = .next (setEvents rest s) := by
  simp [step, he, runEvent, coreTurn, hb]

theorem step_reset {s : State} {rest : List Event} (he : s.events = .reset :: rest) :
    step s = .next (resetBlock (setEvents rest s)) := by
  simp [step, he, runEvent]

/-! ### STATUS and OPL after a turn of the core and after a command write -/

@[simp] theorem elementStep_status (s : State) : (elementStep s).status = s.status := by
  unfold elementStep
  split <;> rfl

@[simp] theorem elementStep_opl (s : State) : (elementStep s).opl = s.opl := by
  unfold elementStep
  split <;> rfl

/-- A `CoreStep` leaves OPL alone (`10_state.md` R31), and all of STATUS unless it completes the command. -/
theorem coreStep_opl_status {s t : State} (hb : s.status.busy = true) (h : coreStep s = .next t) :
    t.opl = s.opl ∧ (t.status = s.status ∨ t.status = statusCompleted s.status) := by
  rcases coreStep_cases hb h with ⟨-, rfl⟩ | ⟨-, rfl⟩ | ⟨-, rfl⟩ | ⟨-, -, rfl⟩ | ⟨-, -, rfl⟩ |
    ⟨-, -, -, -, rfl⟩ | ⟨-, -, -, rfl⟩ | ⟨-, -, rfl⟩ <;> simp

theorem coreStep_wrlost {s t : State} (hb : s.status.busy = true) (h : coreStep s = .next t) :
    t.status.wrlost = s.status.wrlost := by
  rcases (coreStep_opl_status hb h).2 with hst | hst <;> simp [hst]

/-- A word the decoder reads as a command has that command's opcode in its OP field. -/
theorem op_of_decode_eq_instr {w : Word} {i : Instr} (h : decode w = .instr i) :
    w.extractLsb' 0 4 = i.opcode := by
  unfold decode at h
  split at h
  · cases h
  · split at h
    · next j hj =>
      cases h
      exact (ofOpcode_eq_some_iff _ _).mp hj
    · cases h

/-- A command write to an idle block rejects the word, or accepts its command and latches its OP field. -/
theorem commandWrite_rejects_or_accepts {s t : State} {w : Word} (hb : s.status.busy = false)
    (h : commandWrite w s = .next t) :
    (∃ f, t = reject f s) ∨ (t.opl = w.extractLsb' 0 4 ∧ t.status = statusAccepted s.status) := by
  rcases commandWrite_cases w hb with ⟨f, hc⟩ | ⟨i, -, hd, hc⟩ | ⟨hd, -, hc⟩ | ⟨hd, -, -, hc⟩ <;>
    cases hc.symm.trans h
  · exact .inl ⟨f, rfl⟩
  all_goals exact .inr ⟨(op_of_decode_eq_instr hd).symm, rfl⟩

/-! ### OPL: what can change it -/

/-- A step that is not Reset accepts a command and latches the OP field of its word, or it keeps OPL and does
not start a command. -/
theorem step_opl_cases {s t : State} (h : step s = .next t)
    (hr : ∀ rest : List Event, s.events ≠ .reset :: rest) :
    (s.status.busy = false ∧ t.status.busy = true ∧
      ∃ w rest, s.events = .hostWrite 0x00 4 w :: rest ∧ t.opl = w.extractLsb' 0 4) ∨
    (t.opl = s.opl ∧ (s.status.busy = false → t.status.busy = false)) := by
  cases step_cases h with
  | command w q hb hq hc =>
    rcases commandWrite_rejects_or_accepts (s := setEvents q s) hb hc with ⟨f, rfl⟩ | ⟨ho, hst⟩
    · exact .inr ⟨rfl, id⟩
    · exact .inl ⟨hb, by simp [hst], w, q, hq, ho⟩
  | core q hb hq hc =>
    exact .inr ⟨(coreStep_opl_status (s := setEvents q s) hb hc).1, by simp [hb]⟩
  | reset q hq ht => exact absurd hq (hr q)
  | idle q hb hq ht => exact .inr (by simp [ht])
  | dropped r v q hb hq ht => exact .inr (by simp [ht])
  | stored r v q hb hc hq ht => exact .inr (by simp [ht])
  | read r q hq ht => exact .inr (by simp [ht])
  | outPort b q hq ht => exact .inr (by simp [ht])

/-! ### OPL: its value has no effect while the block is idle -/

/-- The state with another value in OPL. -/
def setOpl (o : BitVec 4) (s : State) : State :=
  { s with opl := o }

section
variable (o : BitVec 4) (s : State)

@[simp] theorem setOpl_opl : (setOpl o s).opl = o := rfl
@[simp] theorem setOpl_status : (setOpl o s).status = s.status := rfl

theorem accept_setOpl (op : BitVec 4) : accept op (setOpl o s) = accept op s := rfl

theorem storeReg_setOpl (r : Reg) (v : Word) : storeReg r v (setOpl o s) = setOpl o (storeReg r v s) := by
  cases r <;> rfl

theorem readReg_setOpl (r : Reg) : readReg r (setOpl o s) = readReg r s := by
  cases r <;> rfl

theorem takeRead_setOpl (r : Reg) : takeRead r (setOpl o s) = setOpl o (takeRead r s) := by
  unfold takeRead
  rw [readReg_setOpl]
  rfl

theorem reject_setOpl (f : CmdFault) : reject f (setOpl o s) = setOpl o (reject f s) := rfl

theorem roundsOutOfRange_setOpl : roundsOutOfRange (setOpl o s) = roundsOutOfRange s := rfl

theorem capacityTooSmall_setOpl : capacityTooSmall (setOpl o s) = capacityTooSmall s := rfl

/-- ITERATE from a state with another OPL: the rejection keeps it, the acceptance forgets it. -/
theorem acceptIterate_setOpl :
    acceptIterate (setOpl o s) = acceptIterate s ∨
    acceptIterate (setOpl o s) = setOpl o (acceptIterate s) := by
  unfold acceptIterate
  rw [roundsOutOfRange_setOpl, accept_setOpl, reject_setOpl]
  split_ifs
  · exact .inr rfl
  · exact .inl rfl

/-- CHAIN from a state with another OPL: the two rejections keep it, the acceptance forgets it. -/
theorem acceptChain_setOpl :
    acceptChain (setOpl o s) = acceptChain s ∨ acceptChain (setOpl o s) = setOpl o (acceptChain s) := by
  unfold acceptChain
  rw [roundsOutOfRange_setOpl, capacityTooSmall_setOpl, accept_setOpl, reject_setOpl, reject_setOpl]
  split_ifs
  · exact .inr rfl
  · exact .inr rfl
  · exact .inl rfl

end

/-- The answer `r'` is the next state `t`, or `t` with `o` in OPL. -/
def NextUpToOpl (o : BitVec 4) (t : State) (r' : Result) : Prop :=
  r' = .next t ∨ r' = .next (setOpl o t)

/-- The acceptance or rejection of each command does not depend on the OPL before it. -/
theorem exec_setOpl_of_idle {s t : State} (o : BitVec 4) {i : Instr} (hb : s.status.busy = false)
    (h : exec i s = .next t) : NextUpToOpl o t (exec i (setOpl o s)) := by
  have hb' : (setOpl o s).status.busy = false := by rw [setOpl_status, hb]
  cases i with
  | compress =>
    rw [exec_compress_idle hb] at h
    exact .inl ((exec_compress_idle hb').trans h)
  | fold =>
    rw [exec_fold_idle hb] at h
    exact .inl ((exec_fold_idle hb').trans h)
  | round =>
    rw [exec_round_idle hb] at h
    exact .inl ((exec_round_idle hb').trans h)
  | iterate =>
    rw [exec_iterate_idle hb] at h
    cases h
    rw [exec_iterate_idle hb']
    exact (acceptIterate_setOpl o s).imp (congrArg _) (congrArg _)
  | chain =>
    rw [exec_chain_idle hb] at h
    cases h
    rw [exec_chain_idle hb']
    exact (acceptChain_setOpl o s).imp (congrArg _) (congrArg _)

theorem commandWrite_setOpl_of_idle {s t : State} (o : BitVec 4) {w : Word} (hb : s.status.busy = false)
    (h : commandWrite w s = .next t) : NextUpToOpl o t (commandWrite w (setOpl o s)) := by
  unfold commandWrite at h ⊢
  split at h
  · exact exec_setOpl_of_idle o hb h
  · cases h
    exact .inr rfl

/-- A step of an idle block does not depend on OPL (`10_state.md` R31). -/
theorem step_setOpl_of_idle {s t : State} (o : BitVec 4) (hb : s.status.busy = false)
    (h : step s = .next t) : NextUpToOpl o t (step (setOpl o s)) := by
  have hb' : (setOpl o s).status.busy = false := by rw [setOpl_status, hb]
  cases step_cases h with
  | idle q _ hq ht =>
    subst ht
    rcases hq with ⟨hq, rfl⟩ | hq | hq
    · exact .inr ((step_nil_idle hb' hq).trans (by rw [← hq]; rfl))
    · exact .inr (step_core_idle hb' hq)
    · exact .inr (step_wait_idle hb' hq)
  | command w q _ hq hc =>
    rw [step_commandWrite hb' hq]
    exact commandWrite_setOpl_of_idle (s := setEvents q s) o hb hc
  | stored r v q _ hr hq ht =>
    subst ht
    exact .inr ((step_storeReg hb' hr hq).trans
      (congrArg Host.Outcome.next (storeReg_setOpl o (setEvents q s) r v)))
  | read r q hq ht =>
    subst ht
    exact .inr ((step_takeRead (s := setOpl o s) hq).trans
      (congrArg Host.Outcome.next (takeRead_setOpl o (setEvents q s) r)))
  | reset q hq ht =>
    subst ht
    exact .inl (step_reset hq)
  | outPort b q hq ht =>
    subst ht
    exact .inr (step_outPort hq)
  | core q hbusy _ _ => simp [hb] at hbusy
  | dropped r v q hbusy _ _ => simp [hb] at hbusy

/-- Settles O39: the latch by the cases of a step, the core's turn by `coreStep_of_opl`, and the independence
of an idle block from OPL by `step_setOpl_of_idle`. -/
theorem oplIsLatchedAtAcceptance : Obligations.OplIsLatchedAtAcceptance := by
  refine ⟨fun s t h hr hopl => ?_, fun s i hb hq hi => ?_, fun s t o hb h => ?_⟩
  · rcases step_opl_cases h hr with hacc | ⟨ho, hidle⟩
    · exact hacc
    · rcases hopl with hne | ⟨hb, hb'⟩
      · exact absurd ho hne
      · simp [hidle hb] at hb'
  · exact (step_nil_busy hb hq).trans (coreStep_of_opl ((ofOpcode_eq_some_iff _ _).mp hi))
  · rcases step_setOpl_of_idle o hb h with ht | ht
    · exact ⟨t, ht, rfl, .inr rfl⟩
    · exact ⟨setOpl o t, ht, rfl, .inl (setOpl_opl o t)⟩

/-! ### WRLOST -/

/-- What a step can do to STATUS, as far as WRLOST goes (`10_state.md` R29): keep that flag, or drop a host
write to a busy block, or be Reset. -/
theorem step_wrlost_cases {s t : State} (h : step s = .next t) :
    t.status.wrlost = s.status.wrlost ∨
    (s.status.busy = true ∧ (∃ off v rest, s.events = .hostWrite off 4 v :: rest) ∧
      t.status = statusWriteLost s.status) ∨
    ((∃ rest, s.events = .reset :: rest) ∧ t.status = Status.reset) := by
  cases step_cases h with
  | dropped r v q hb hq ht => exact .inr (.inl ⟨hb, ⟨regOffset r, v, q, hq⟩, by simp [ht]⟩)
  | reset q hq ht => exact .inr (.inr ⟨⟨q, hq⟩, by simp [ht]⟩)
  | core q hb hq hc => exact .inl (coreStep_wrlost (s := setEvents q s) hb hc)
  | command w q hb hq hc =>
    rcases commandWrite_rejects_or_accepts (s := setEvents q s) hb hc with ⟨f, rfl⟩ | ⟨-, hst⟩
    · exact .inl rfl
    · exact .inl (by simp [hst])
  | idle q hb hq ht => exact .inl (by simp [ht])
  | stored r v q hb hr hq ht => exact .inl (by simp [ht])
  | read r q hq ht => exact .inl (by simp [ht])
  | outPort b q hq ht => exact .inl (by simp [ht])

/-- Settles O42, by what a step can do to WRLOST. -/
theorem writeLostIsSticky : Obligations.WriteLostIsSticky := by
  intro s t h
  rcases step_wrlost_cases h with heq | ⟨hb, hw, hst⟩ | ⟨⟨rest, hq⟩, hst⟩
  · exact ⟨fun hs _ => heq.trans hs, fun hs ht => by simp [heq, hs] at ht⟩
  · exact ⟨fun _ _ => by simp [hst], fun _ _ => ⟨hb, hw, hst⟩⟩
  · exact ⟨fun _ hr => absurd hq (hr rest), fun _ ht => by simp [hst, Status.reset] at ht⟩

/-! ### Reset -/

/-- Settles O33, by the steps of Reset and of an idle block. -/
theorem resetLeavesTheTableValues : Obligations.ResetLeavesTheTableValues :=
  ⟨fun _ _ hq => step_reset hq, fun _ hb hq => step_nil_idle hb hq, fun _ _ hb hq => step_core_idle hb hq,
    rfl, rfl, rfl, rfl, rfl, rfl, rfl, rfl⟩

end Sys2Proof.Machine
end

section
/-! PROOFS. The memory family: host accesses to the register window. -/

namespace Sys2Proof.Machine

/-! ### Accesses with and without a meaning (`20_memory.md` R70) -/

theorem accessWf_iff (off width : Nat) :
    accessWf off width = true ↔ width = 4 ∧ off % 4 = 0 ∧ off < 0x40 := by
  simp [accessWf]

/-- A well-formed access is one to the offset of some register. -/
theorem exists_reg_of_accessWf {off width : Nat} (h : accessWf off width = true) :
    ∃ r, width = 4 ∧ off = regOffset r := by
  rw [← regAccessed_isSome] at h
  obtain ⟨r, hr⟩ := Option.isSome_iff_exists.mp h
  exact ⟨r, (regAccessed_eq_some_iff off width r).mp hr⟩

theorem regAccessed_eq_none {off width : Nat} (h : ¬ accessWf off width = true) :
    regAccessed off width = none := by
  rwa [← regAccessed_isSome, Option.not_isSome_iff_eq_none] at h

section
variable {off width : Nat} (rest : List Event) (s : State)

theorem runEvent_write_refused (v : Word) (h : ¬ accessWf off width = true) :
    runEvent (.hostWrite off width v) rest s = .refused (.regAccess off width) := by
  simp [runEvent, hostWrite, regAccessed_eq_none h]

theorem runEvent_read_refused (h : ¬ accessWf off width = true) :
    runEvent (.hostRead off width) rest s = .refused (.regAccess off width) := by
  simp [runEvent, hostRead, regAccessed_eq_none h]

end

/-- A command write to an idle block always answers: it rejects the word or accepts a command. -/
theorem commandWrite_answers (w : Word) {s : State} (hb : s.status.busy = false) :
    ∃ t, commandWrite w s = .next t := by
  rcases commandWrite_cases w hb with ⟨_, hc⟩ | ⟨_, -, -, hc⟩ | ⟨-, -, hc⟩ | ⟨-, -, -, hc⟩ <;>
    exact ⟨_, hc⟩

/-- A write to a register always answers: dropped while busy, a command write or a plain one while idle. -/
theorem writeReg_answers (r : Reg) (v : Word) (s : State) : ∃ t, writeReg r v s = .next t := by
  unfold writeReg
  split_ifs with hb hr
  · exact ⟨_, rfl⟩
  · exact commandWrite_answers v (by simpa using hb)
  · exact ⟨_, rfl⟩

/-- Settles O28: an access is ill formed and reaches no register, or it is to a register's offset, where
every write and every read answers. -/
theorem undefinedRegisterAccessIsRefused : Obligations.UndefinedRegisterAccessIsRefused := by
  intro s off width v rest
  rw [← accessWf_iff]
  constructor
  · intro h
    exact ⟨runEvent_write_refused rest _ v h, runEvent_read_refused rest _ h⟩
  · intro h
    obtain ⟨r, rfl, rfl⟩ := exists_reg_of_accessWf h
    obtain ⟨t, ht⟩ := writeReg_answers r v (setEvents rest s)
    exact ⟨⟨t, (runEvent_write r v rest _).trans ht⟩, ⟨_, runEvent_read r rest _⟩⟩

/-! ### Writes to an idle block -/

/-- A host write to an idle block, to any register but CMD, stores what `storeReg` says and takes the event
off. -/
theorem step_hostWrite_of_idle {s : State} (r : Reg) (v : Word) (rest : List Event)
    (hb : s.status.busy = false) (hr : r ≠ .cmd) :
    step { s with events := .hostWrite (regOffset r) 4 v :: rest } =
      .next (storeReg r v (setEvents rest s)) :=
  step_storeReg (s := { s with events := lineWr r v :: rest }) hb hr rfl

/-- Settles O24: `storeReg` at each of the eight operand registers. -/
theorem operandWriteStoresTheWholeWord : Obligations.OperandWriteStoresTheWholeWord := by
  intro s v rest hb
  exact ⟨step_hostWrite_of_idle .seedLo v rest hb nofun, step_hostWrite_of_idle .seedHi v rest hb nofun,
    step_hostWrite_of_idle .rounds v rest hb nofun, step_hostWrite_of_idle .capacity v rest hb nofun,
    step_hostWrite_of_idle .digA v rest hb nofun, step_hostWrite_of_idle .digB v rest hb nofun,
    step_hostWrite_of_idle .digC v rest hb nofun, step_hostWrite_of_idle .digD v rest hb nofun⟩

/-- The registers that ignore a write while idle: STATUS, RES and the reserved ones (`20_memory.md` R63). -/
def writeIgnoredRegs : List Reg :=
  [.status, .resLo, .resHi, .reserved30, .reserved34, .reserved38, .reserved3C]

theorem writeIgnoredRegs_ne_cmd : ∀ r ∈ writeIgnoredRegs, r ≠ .cmd := by decide

theorem storeReg_writeIgnoredRegs (v : Word) (s : State) :
    ∀ r ∈ writeIgnoredRegs, storeReg r v s = s := by
  simp [writeIgnoredRegs, storeReg]

/-- Settles O25: the seven offsets are those of the registers that ignore a write. -/
theorem writeToReadOnlyOrReservedIsIgnored : Obligations.WriteToReadOnlyOrReservedIsIgnored := by
  intro s off v rest hb hoff
  obtain ⟨r, hr, rfl⟩ : ∃ r ∈ writeIgnoredRegs, regOffset r = off := List.mem_map.mp hoff
  rw [step_hostWrite_of_idle r v rest hb (writeIgnoredRegs_ne_cmd r hr),
    storeReg_writeIgnoredRegs v _ r hr]
  rfl

/-! ### Reads (`20_memory.md` R65) -/

section
variable {s : State} {r : Reg}

theorem takeRead_of_specified (h : readIsDrawn r s = false) :
    takeRead r s = { s with reads := regValue r s :: s.reads } := by
  simp [takeRead, h]

theorem takeRead_of_drawn (h : readIsDrawn r s = true) :
    takeRead r s = { s with reads := Config.freeWord s.draws :: s.reads, draws := s.draws + 1 } := by
  simp [takeRead, readReg, h]

theorem regValue_setEvents (q : List Event) : regValue r (setEvents q s) = regValue r s := by
  cases r <;> rfl

/-- A read of a register whose value is specified now returns it. -/
theorem step_hostRead_specified (rest : List Event) (h : readIsDrawn r s = false) :
    step { s with events := .hostRead (regOffset r) 4 :: rest } =
      .next { s with events := rest, reads := regValue r s :: s.reads } := by
  have hread : takeRead r (setEvents rest s) =
      { s with events := rest, reads := regValue r s :: s.reads } := by
    rw [takeRead_of_specified (s := setEvents rest s) h, regValue_setEvents]
    rfl
  exact (runEvent_read r rest _).trans (congrArg Host.Outcome.next hread)

/-- An unspecified read returns a fresh draw. -/
theorem step_hostRead_drawn (rest : List Event) (h : readIsDrawn r s = true) :
    step { s with events := .hostRead (regOffset r) 4 :: rest } =
      .next { s with events := rest, reads := Config.freeWord s.draws :: s.reads,
                     draws := s.draws + 1 } :=
  (runEvent_read r rest _).trans
    (congrArg Host.Outcome.next (takeRead_of_drawn (s := setEvents rest s) h))

/-- A register that is specified while busy reads exactly at all times. -/
theorem readIsDrawn_of_specified (h : unspecifiedWhileBusy r = false) : readIsDrawn r s = false := by
  simp [readIsDrawn, h]

theorem readIsDrawn_of_idle (hb : s.status.busy = false) : readIsDrawn r s = false := by
  simp [readIsDrawn, hb]

theorem readIsDrawn_of_busy (hb : s.status.busy = true) (h : unspecifiedWhileBusy r = true) :
    readIsDrawn r s = true := by
  simp [readIsDrawn, hb, h]

end

/-- The registers that read 0: CMD and the reserved ones. -/
def zeroRegs : List Reg :=
  [.cmd, .reserved30, .reserved34, .reserved38, .reserved3C]

/-- The registers only the host writes, which read exactly at all times: SEED, ROUNDS, CAPACITY. -/
def parameterRegs : List Reg :=
  [.seedLo, .seedHi, .rounds, .capacity]

/-- The registers a command writes, which read exactly while idle only: RES and DIG. -/
def resultRegs : List Reg :=
  [.resLo, .resHi, .digA, .digB, .digC, .digD]

theorem zeroRegs_specified : ∀ r ∈ zeroRegs, unspecifiedWhileBusy r = false := by decide

theorem parameterRegs_specified : ∀ r ∈ parameterRegs, unspecifiedWhileBusy r = false := by decide

theorem resultRegs_unspecified : ∀ r ∈ resultRegs, unspecifiedWhileBusy r = true := by decide

theorem regValue_zeroRegs (s : State) : ∀ r ∈ zeroRegs, regValue r s = 0#32 := by
  simp [zeroRegs, regValue]

/-- Settles O27: each list of offsets is that of a list of registers, and a read of a register returns its
value unless it is drawn. -/
theorem hostReadReturnsTheTable : Obligations.HostReadReturnsTheTable := by
  refine fun s rest => ⟨fun off hoff => ?_, ?_, fun off v hoff => ?_, fun off v hoff => ?_⟩
  · obtain ⟨r, hr, rfl⟩ : ∃ r ∈ zeroRegs, regOffset r = off := List.mem_map.mp hoff
    rw [step_hostRead_specified rest (readIsDrawn_of_specified (zeroRegs_specified r hr)),
      regValue_zeroRegs s r hr]
  · exact step_hostRead_specified (r := .status) rest (readIsDrawn_of_specified rfl)
  · obtain ⟨r, hr, heq⟩ : ∃ r ∈ parameterRegs, (regOffset r, regValue r s) = (off, v) :=
      List.mem_map.mp hoff
    cases heq
    exact step_hostRead_specified rest (readIsDrawn_of_specified (parameterRegs_specified r hr))
  · obtain ⟨r, hr, heq⟩ : ∃ r ∈ resultRegs, (regOffset r, regValue r s) = (off, v) :=
      List.mem_map.mp hoff
    cases heq
    exact ⟨fun hb => step_hostRead_specified rest (readIsDrawn_of_idle hb),
      fun hb => step_hostRead_drawn rest (readIsDrawn_of_busy hb (resultRegs_unspecified r hr))⟩

end Sys2Proof.Machine
end

section
/-! PROOFS. The encoding family: the STATUS word, the illegal command words, and the packing of a state. -/

namespace Sys2Proof.Machine

/-! ### The packing of a state (`30_encoding.md` R98) -/

theorem pack_eq_shiftLeft_or (x : OtpPair) : pack x = x.hi.setWidth 64 <<< 32 ||| x.lo.setWidth 64 := by
  rw [← BitVec.setWidth_append_eq_shiftLeft_setWidth_or]
  exact (BitVec.setWidth_eq _).symm

@[simp] theorem unpack_pack (x : OtpPair) : unpack (pack x) = x :=
  congrArg₂ OtpPair.mk BitVec.extractLsb'_append_eq_right BitVec.extractLsb'_append_eq_left

@[simp] theorem pack_unpack (v : BitVec 64) : pack (unpack v) = v :=
  BitVec.extractLsb'_append_extractLsb'

/-- Settles O48: the formula of R98 and the two inverses; the slices and the block words are the definitions. -/
theorem packAndUnpackAreInverse : Obligations.PackAndUnpackAreInverse :=
  ⟨fun x => ⟨pack_eq_shiftLeft_or x, unpack_pack x⟩, fun v => ⟨rfl, pack_unpack v⟩, fun _ => ⟨rfl, rfl⟩⟩

/-! ### Illegal command words (`30_encoding.md` R95) -/

/-- A word the decoder reads as a command has no bit set above its OP field. -/
theorem zero_of_decode_eq_instr {w : Word} {i : Instr} (h : decode w = .instr i) :
    w.extractLsb' 4 28 = 0#28 := by
  by_contra hz
  have hr : decode w = .reject (.zeroFieldSet (w.extractLsb' 4 28)) := if_pos hz
  cases hr.symm.trans h

/-- The opcodes of the commands are 1 to 5 (`30_encoding.md` R94). -/
theorem opcode_range (i : Instr) : i.opcode ≠ 0#4 ∧ ¬ 6#4 ≤ i.opcode := by
  cases i <;> decide

/-- A word with a bit set above its OP field, or with OP outside 1 to 5, is no command. -/
theorem decode_ne_instr_of_illegal {w : Word}
    (h : w.extractLsb' 4 28 ≠ 0#28 ∨ w.extractLsb' 0 4 = 0#4 ∨ 6#4 ≤ w.extractLsb' 0 4) (i : Instr) :
    decode w ≠ .instr i := by
  intro hd
  obtain ⟨hne0, hlt6⟩ := opcode_range i
  rw [zero_of_decode_eq_instr hd, op_of_decode_eq_instr hd] at h
  rcases h with hz | h0 | h6
  · exact hz rfl
  · exact hne0 h0
  · exact hlt6 h6

/-- A command write of a word that is no command is the rejection ILLEGAL_CMD. -/
theorem commandWrite_of_illegal {w : Word} (h : ∀ i, decode w ≠ .instr i) (s : State) :
    commandWrite w s = .next (reject .illegalCmd s) := by
  unfold commandWrite
  split
  · next i hi => exact absurd hi (h i)
  · rfl

/-- Settles O30: the decoder reads no command from such a word, and the write is then the rejection
ILLEGAL_CMD. -/
theorem illegalWordChangesOnlyStatus : Obligations.IllegalWordChangesOnlyStatus := by
  intro s w rest hb hw
  exact (step_commandWrite (s := { s with events := .hostWrite 0x00 4 w :: rest }) hb rfl).trans
    (commandWrite_of_illegal (decode_ne_instr_of_illegal hw) _)

/-! ### The STATUS word (`30_encoding.md` R92) -/

section
variable (st : Status)

theorem statusWord_flags :
    (statusWord st).getLsbD 0 = st.busy ∧ (statusWord st).getLsbD 1 = st.done ∧
    (statusWord st).getLsbD 2 = st.err ∧ (statusWord st).getLsbD 3 = st.wrlost := by
  simp only [statusWord, BitVec.getLsbD_append]
  simp

/-- Above the four flags stand ERRCODE and the zero bits. -/
theorem extractLsb'_statusWord {start : Nat} (len : Nat) (h : 4 ≤ start) :
    (statusWord st).extractLsb' start len = (0#24 ++ st.errcode).extractLsb' (start - 4) len := by
  unfold statusWord
  iterate 4 rw [BitVec.extractLsb'_append_eq_of_le (by omega)]
  rfl

theorem statusWord_errcode : (statusWord st).extractLsb' 4 4 = st.errcode :=
  (extractLsb'_statusWord st 4 (by decide)).trans BitVec.extractLsb'_append_eq_right

theorem statusWord_zero : (statusWord st).extractLsb' 8 24 = 0#24 :=
  (extractLsb'_statusWord st 24 (by decide)).trans BitVec.extractLsb'_append_eq_left

end

/-- The six values STATUS takes for a given WRLOST: after reset, busy, done, and rejected with each fault. -/
def listedStatuses (wrlost : Bool) : List Status :=
  let st : Status := { Status.reset with wrlost := wrlost }
  [st, statusAccepted st, statusCompleted st, statusRejected .illegalCmd st,
    statusRejected .roundsRange st, statusRejected .capacity st]

/-- An error code of 1 to 3 is the code of a fault (`60_exceptions.md` R200). -/
theorem exists_faultCode {c : BitVec 4} (h0 : c ≠ 0#4) (h3 : c ≤ 3#4) : ∃ f, faultCode f = c := by
  obtain rfl | rfl | rfl : c = 1#4 ∨ c = 2#4 ∨ c = 3#4 := by bv_omega
  · exact ⟨.illegalCmd, rfl⟩
  · exact ⟨.roundsRange, rfl⟩
  · exact ⟨.capacity, rfl⟩

/-- The STATUS invariants (`10_state.md` R28) leave only the listed values. -/
theorem mem_listedStatuses {st : Status} (h : StatusInv st) : st ∈ listedStatuses st.wrlost := by
  obtain ⟨busy, done, err, wrlost, code⟩ := st
  obtain ⟨hbd, hbe, hde, hcode, hle⟩ := h
  cases err with
  | true =>
    obtain ⟨f, rfl⟩ := exists_faultCode (hcode.mpr rfl) hle
    obtain rfl : busy = false := by simpa using hbe
    obtain rfl : done = false := by simpa using hde
    cases f <;> simp [listedStatuses, statusRejected, Status.reset]
  | false =>
    obtain rfl : code = 0#4 := by simpa using hcode
    cases busy with
    | true =>
      obtain rfl : done = false := by simpa using hbd
      simp [listedStatuses, statusAccepted]
    | false => cases done <;> simp [listedStatuses, statusCompleted, Status.reset]

theorem statusWord_mem {st : Status} (h : StatusInv st) :
    statusWord st ∈ (listedStatuses st.wrlost).map statusWord :=
  List.mem_map_of_mem (mem_listedStatuses h)

theorem listedWords_wrlost_false : (listedStatuses false).map statusWord =
    [0x00#32, 0x01#32, 0x02#32, 0x14#32, 0x24#32, 0x34#32] := by decide

theorem listedWords_wrlost_true : (listedStatuses true).map statusWord =
    [0x08#32, 0x09#32, 0x0A#32, 0x1C#32, 0x2C#32, 0x3C#32] := by decide

/-- Settles O29: the fields of the word one by one, and the words of the six STATUS values that the
invariants leave. -/
theorem statusWordHasTheLayout : Obligations.StatusWordHasTheLayout := by
  refine ⟨fun st => ?_, fun st h => ⟨fun hw => ?_, fun hw => ?_⟩⟩
  · obtain ⟨hbusy, hdone, herr, hwrlost⟩ := statusWord_flags st
    exact ⟨hbusy, hdone, herr, hwrlost, statusWord_errcode st, statusWord_zero st⟩
  · simpa only [hw, listedWords_wrlost_false] using statusWord_mem h
  · simpa only [hw, listedWords_wrlost_true] using statusWord_mem h

end Sys2Proof.Machine
end

section
/-! PROOFS. The MD5 compressor family: the rotation, the order of the block words, and COMPRESS. -/

namespace Sys2Proof.Machine

/-! ### Rotation (`40_md5_compressor.md` R122) -/

section
variable (x : Word) {n i : Nat}

theorem rotl32_toNat :
    (rotl32 x n).toNat = (x.toNat <<< n) % 2 ^ 32 ||| x.toNat >>> (32 - n) := by
  rw [rotl32, BitVec.toNat_or, BitVec.toNat_shiftLeft, BitVec.toNat_ushiftRight]

theorem rotl32_getLsbD (hn : n < 32) (hi : i < 32) :
    (rotl32 x n).getLsbD i = if i < n then x.getLsbD (32 - n + i) else x.getLsbD (i - n) := by
  rw [← rotateLeft_eq_rotl32 x hn, BitVec.getLsbD_rotateLeft, Nat.mod_eq_of_lt hn]
  simp [hi]

/-- Bit `i` goes up by `n`, or past the top and round to `i + n - 32`. -/
theorem rotl32_getLsbD_add_mod (hn : n < 32) (hi : i < 32) :
    (rotl32 x n).getLsbD ((i + n) % 32) = x.getLsbD i := by
  rw [rotl32_getLsbD x hn (Nat.mod_lt _ (by decide))]
  by_cases hwrap : i + n < 32
  · have hmod : (i + n) % 32 = i + n := Nat.mod_eq_of_lt hwrap
    rw [hmod, if_neg (by omega), Nat.add_sub_cancel]
  · have hmod : (i + n) % 32 = i + n - 32 := by omega
    have hback : 32 - n + (i + n - 32) = i := by omega
    rw [hmod, if_pos (by omega), hback]

end

/-- The sixteen rotation amounts of the steps (`40_md5_compressor.md` R122), in rising order. -/
theorem shiftAmount_mem (i : Nat) :
    shiftAmount i ∈ [4, 5, 6, 7, 9, 10, 11, 12, 14, 15, 16, 17, 20, 21, 22, 23] := by
  have hi : i % 4 < 4 := Nat.mod_lt i (by decide)
  unfold shiftAmount groupShifts
  generalize i % 4 = k at hi ⊢
  split <;> interval_cases k <;> decide

/-- Settles O49: the formula is the definition on numbers, the bits move by `rotl32_getLsbD_add_mod`, and the
amounts are those of `shiftAmount_mem`. -/
theorem rotationMovesEveryBit : Obligations.RotationMovesEveryBit :=
  ⟨fun x _ _ _ => rotl32_toNat x,
    fun x _ _ _ hn hi => rotl32_getLsbD_add_mod x (Nat.lt_succ_of_le hn) hi,
    fun i _ => shiftAmount_mem i,
    by decide, by decide, by decide, by decide⟩

/-! ### The order of the block words (`40_md5_compressor.md` R131) -/

/-- Settles O51: the four groups of `blockIndex`, evaluated at the 64 steps. -/
theorem blockWordOrderIsTheTable : Obligations.BlockWordOrderIsTheTable := by
  unfold Obligations.BlockWordOrderIsTheTable
  decide

/-! ### COMPRESS (`40_md5_compressor.md` R126) -/

/-- Settles O5: acceptance and step are `exec_compress_idle` and `exec_compress_busy`; the states they name
are the written ones by definition. -/
theorem compressAcceptsThenWritesDigest : Obligations.CompressAcceptsThenWritesDigest :=
  ⟨rfl, fun _ => exec_compress_idle, fun _ => exec_compress_busy⟩

end Sys2Proof.Machine
end

section
/-! PROOFS. The folder family: the fold as the XOR of the digest's halves, and FOLD. -/

namespace Sys2Proof.Machine

/-! ### The fold (`41_folder.md` R150) -/

/-- The 128-bit digest `{D, C, B, A}` is its high half `{D, C}` above its low half `{B, A}`. -/
theorem digest_eq_high_append_low (a b c d : Word) : d ++ c ++ b ++ a = (d ++ c) ++ (b ++ a) :=
  BitVec.append_assoc

theorem pack_foldDigest (w : Digest) : pack (foldDigest w) = (w.b ++ w.a) ^^^ (w.d ++ w.c) :=
  BitVec.xor_append.symm

/-- Settles O54: the pair is the definition, and the halves that `pack_foldDigest` XORs are the two extracts
of the digest. -/
theorem foldIsTheXorOfTheHalves : Obligations.FoldIsTheXorOfTheHalves := by
  refine fun w => ⟨rfl, ?_⟩
  have hlow : (w.d ++ w.c ++ w.b ++ w.a).extractLsb' 0 64 = w.b ++ w.a := by
    rw [digest_eq_high_append_low]
    exact BitVec.extractLsb'_append_eq_right
  have hhigh : (w.d ++ w.c ++ w.b ++ w.a).extractLsb' 64 64 = w.d ++ w.c := by
    rw [digest_eq_high_append_low]
    exact BitVec.extractLsb'_append_eq_left
  rw [hlow, hhigh, pack_foldDigest]

/-! ### FOLD (`41_folder.md` R151) -/

/-- Settles O6: acceptance and step are `exec_fold_idle` and `exec_fold_busy`; the states they name are the
written ones by definition. -/
theorem foldAcceptsThenWritesFoldedDigest : Obligations.FoldAcceptsThenWritesFoldedDigest :=
  ⟨rfl, fun _ => exec_fold_idle, fun _ => exec_fold_busy⟩

end Sys2Proof.Machine
end

section
/-! PROOFS. The round function family: ROUND. -/

namespace Sys2Proof.Machine

/-! ### ROUND (`42_round_function.md` R161) -/

/-- Settles O7: acceptance and step are `exec_round_idle` and `exec_round_busy`; the states they name are the
written ones by definition. -/
theorem roundAcceptsThenWritesDigestAndFold : Obligations.RoundAcceptsThenWritesDigestAndFold :=
  ⟨rfl, fun _ => exec_round_idle, fun _ => exec_round_busy⟩

end Sys2Proof.Machine
end

section
/-! PROOFS. The iterator family: the acceptance, the step and the loop invariant of ITERATE. -/

namespace Sys2Proof.Machine

section
variable {s : State}

/-! ### Acceptance (`43_single_result_iterator.md` R171) -/

theorem acceptIterate_rejects (h : s.params.maxRounds.toNat < s.rounds.toNat) :
    acceptIterate s = reject .roundsRange s := by
  rcases acceptIterate_cases s with ⟨-, he⟩ | ⟨hr, -⟩
  · exact he
  · omega

theorem acceptIterate_accepts (h : s.rounds.toNat ≤ s.params.maxRounds.toNat) :
    acceptIterate s = loadSeed (accept 4#4 s) := by
  rcases acceptIterate_cases s with ⟨hr, -⟩ | ⟨-, he⟩
  · omega
  · exact he

/-! ### Step (`43_single_result_iterator.md` R172) -/

/-- Everything the step of ITERATE can do. -/
theorem stepIterate_cases (s : State) :
    (s.idx.toNat < s.rounds.toNat ∧ stepIterate s = advance s) ∨
    (s.rounds.toNat ≤ s.idx.toNat ∧ stepIterate s = complete s) :=
  (Nat.lt_or_ge s.idx.toNat s.rounds.toNat).imp
    (fun h => ⟨h, stepIterate_round h⟩) (fun h => ⟨h, stepIterate_done h⟩)

theorem stepIterate_err_errcode (s : State) :
    (stepIterate s).status.err = s.status.err ∧ (stepIterate s).status.errcode = s.status.errcode := by
  rcases stepIterate_cases s with ⟨-, he⟩ | ⟨-, he⟩ <;> simp [he]

/-! ### The loop invariant (`43_single_result_iterator.md` R172) -/

/-- The round on the pair of registers is the round on the packed value (`42_round_function.md` R160). -/
theorem pack_otpRound (x : OtpPair) : pack (otpRound x) = round64 (pack x) := by
  rw [round64, unpack_pack]

theorem iterateInv_loadSeed_accept (op : BitVec 4) (h : s.rounds ≤ s.params.maxRounds) :
    IterateInv (loadSeed (accept op s)) :=
  ⟨h, BitVec.le_def.mpr (Nat.zero_le _), rfl⟩

theorem iterateInv_advance (hi : IterateInv s) (h : s.idx.toNat < s.rounds.toNat) :
    IterateInv (advance s) := by
  obtain ⟨hmax, -, hcur⟩ := hi
  have hidx : (advance s).idx.toNat = s.idx.toNat + 1 := idx_succ_toNat h
  refine ⟨hmax, BitVec.le_def.mpr (hidx ▸ h), ?_⟩
  calc pack (advance s).cur
      = round64 (pack s.cur) := pack_otpRound s.cur
    _ = otpIterate (pack s.seed) (s.idx.toNat + 1) := by rw [hcur, otpIterate]
    _ = otpIterate (pack (advance s).seed) (advance s).idx.toNat := by rw [hidx, advance_seed]

/-- Completion changes STATUS only, which the invariant does not speak of. -/
theorem iterateInv_complete (hi : IterateInv s) : IterateInv (complete s) :=
  hi

theorem iterateInv_stepIterate (hi : IterateInv s) : IterateInv (stepIterate s) := by
  rcases stepIterate_cases s with ⟨h, he⟩ | ⟨-, he⟩
  · exact he ▸ iterateInv_advance hi h
  · exact he ▸ iterateInv_complete hi

end

/-! ### ITERATE -/

/-- Settles O9: an acceptance establishes the invariant by `iterateInv_loadSeed_accept`; the step is `advance`
or `complete`, which are the written states by definition, and keeps the invariant by
`iterateInv_stepIterate`. -/
theorem iterateStepIsOneRoundOrCompletes : Obligations.IterateStepIsOneRoundOrCompletes := by
  refine ⟨fun s hb hr => ?_, fun s hb => ?_⟩
  · rw [exec_iterate_idle hb, acceptIterate_accepts (BitVec.le_def.mp hr)]
    exact ⟨_, rfl, iterateInv_loadSeed_accept 4#4 hr⟩
  · rw [exec_iterate_busy hb]
    exact ⟨fun h => congrArg Host.Outcome.next (stepIterate_round (BitVec.lt_def.mp h)),
      fun h => congrArg Host.Outcome.next (stepIterate_done (BitVec.le_def.mp h)),
      fun hi => ⟨_, rfl, iterateInv_stepIterate hi⟩⟩

/-- Settles O8: the idle clauses are the two cases of the acceptance, whose states are the written ones by
definition; while busy the step keeps ERR and ERRCODE by `stepIterate_err_errcode`. -/
theorem iterateAcceptanceChecksRoundsAndLoadsSeed :
    Obligations.IterateAcceptanceChecksRoundsAndLoadsSeed := by
  refine ⟨rfl, fun s hb => ?_, fun s hb => ⟨_, exec_iterate_busy hb, stepIterate_err_errcode s⟩⟩
  rw [exec_iterate_idle hb]
  exact ⟨fun h => congrArg Host.Outcome.next (acceptIterate_rejects (BitVec.lt_def.mp h)),
    fun h => congrArg Host.Outcome.next (acceptIterate_accepts (BitVec.le_def.mp h))⟩

end Sys2Proof.Machine
end

section
/-! PROOFS. The chain family: the acceptance, the steps and the loop invariant of CHAIN. -/

namespace Sys2Proof.Machine

/-! ### The elements of the OUT space after an `OutWrite` (`20_memory.md` R66) -/

theorem readElement_outWrite_same (m : Memory) (index : Word) (v : BitVec 64) :
    readElement (outWrite m index v) index.toNat = some v := by
  refine readElement_of_bytes _ _ _ fun k hk => ?_
  rw [readByte_outWrite, elementAddr, if_pos (by omega), Nat.add_sub_cancel_left]

theorem readElement_outWrite_other (m : Memory) {index : Word} {i : Nat} (v : BitVec 64)
    (h : i ≠ index.toNat) : readElement (outWrite m index v) i = readElement m i := by
  refine readElement_congr _ _ _ fun k hk => ?_
  rw [readByte_outWrite, elementAddr, if_neg (by omega)]

section
variable {s : State}

/-! ### Acceptance (`44_chain_generator.md` R186) -/

theorem acceptChain_rejects_roundsRange (h : s.params.maxRounds.toNat < s.rounds.toNat) :
    acceptChain s = reject .roundsRange s := by
  rw [acceptChain, if_pos ((roundsOutOfRange_iff s).mpr h)]

theorem acceptChain_rejects_capacity (hr : s.rounds.toNat ≤ s.params.maxRounds.toNat)
    (hc : s.capacity.toNat < s.rounds.toNat) : acceptChain s = reject .capacity s := by
  rcases acceptChain_cases s with ⟨h, -⟩ | ⟨-, -, he⟩ | ⟨-, h, -⟩
  · omega
  · exact he
  · omega

theorem acceptChain_accepts (hr : s.rounds.toNat ≤ s.params.maxRounds.toNat)
    (hc : s.rounds.toNat ≤ s.capacity.toNat) : acceptChain s = loadSeed (accept 5#4 s) := by
  rcases acceptChain_cases s with ⟨h, -⟩ | ⟨-, h, -⟩ | ⟨-, -, he⟩
  · omega
  · omega
  · exact he

/-! ### Step (`44_chain_generator.md` R187) -/

theorem stepChain_outside (h : s.idx.toNat < s.rounds.toNat) (hp : s.outStalled = false)
    (ho : s.params.outSize ≤ s.idx.toNat) : stepChain s = .refused (.outsideBuffer s.idx) := by
  rw [stepChain, if_pos ((roundsRemain_iff s).mpr h), if_neg (by simp [hp]), if_neg (by omega)]

/-- Everything the step of CHAIN can do. -/
theorem stepChain_cases (s : State) :
    (s.rounds.toNat ≤ s.idx.toNat ∧ stepChain s = .next (complete s)) ∨
    (s.idx.toNat < s.rounds.toNat ∧ s.outStalled = true ∧ stepChain s = .next s) ∨
    (s.idx.toNat < s.rounds.toNat ∧ s.outStalled = false ∧ s.idx.toNat < s.params.outSize ∧
      stepChain s = .next (elementStep s)) ∨
    (s.idx.toNat < s.rounds.toNat ∧ s.outStalled = false ∧ s.params.outSize ≤ s.idx.toNat ∧
      stepChain s = .refused (.outsideBuffer s.idx)) := by
  rcases Nat.lt_or_ge s.idx.toNat s.rounds.toNat with h | h
  · cases hp : s.outStalled with
    | true => exact .inr (.inl ⟨h, rfl, stepChain_stalled h hp⟩)
    | false =>
      rcases Nat.lt_or_ge s.idx.toNat s.params.outSize with ho | ho
      · exact .inr (.inr (.inl ⟨h, rfl, ho, stepChain_element h hp ho⟩))
      · exact .inr (.inr (.inr ⟨h, rfl, ho, stepChain_outside h hp ho⟩))
  · exact .inl ⟨h, stepChain_done h⟩

theorem stepChain_not_fault (f : Fault) : stepChain s ≠ .fault f := by
  rcases stepChain_cases s with ⟨-, he⟩ | ⟨-, -, he⟩ | ⟨-, -, -, he⟩ | ⟨-, -, -, he⟩ <;> simp [he]

theorem stepChain_err_errcode {t : State} (ht : stepChain s = .next t) :
    t.status.err = s.status.err ∧ t.status.errcode = s.status.errcode := by
  rcases stepChain_cases s with ⟨-, he⟩ | ⟨-, -, he⟩ | ⟨-, -, -, he⟩ | ⟨-, -, -, he⟩
  all_goals rw [he] at ht
  · cases ht
    exact ⟨rfl, rfl⟩
  · cases ht
    exact ⟨rfl, rfl⟩
  · cases ht
    simp
  · cases ht

/-! ### The loop invariant (`44_chain_generator.md` R187) -/

theorem chainInv_loadSeed_accept (op : BitVec 4) (hr : s.rounds ≤ s.params.maxRounds)
    (hc : s.rounds ≤ s.capacity) : ChainInv (loadSeed (accept op s)) := by
  refine ⟨hr, hc, BitVec.le_def.mpr (Nat.zero_le _), ?_, fun _ hi => absurd hi (Nat.not_lt_zero _)⟩
  simp [otpIterate]

/-- While an element remains, `min(IDX, ROUNDS - 1)` is IDX. -/
theorem ChainInv.pack_cur (hi : ChainInv s) (h : s.idx.toNat < s.rounds.toNat) :
    pack s.cur = otpIterate (pack s.seed) s.idx.toNat := by
  obtain ⟨-, -, -, hcur, -⟩ := hi
  rw [hcur, Nat.min_eq_left (by omega)]

/-- Recording CUR makes the chain in the OUT space one element longer. -/
theorem ChainInv.readElement_recordCur (hi : ChainInv s) (h : s.idx.toNat < s.rounds.toNat) (i : Nat)
    (hlt : i < (s.idx + 1#32).toNat) :
    readElement (recordCur s).mem i = some (otpIterate (pack s.seed) i) := by
  rw [idx_succ_toNat h] at hlt
  rw [recordCur_mem]
  by_cases hidx : i = s.idx.toNat
  · rw [hidx, readElement_outWrite_same, hi.pack_cur h]
  · obtain ⟨-, -, -, -, hmem⟩ := hi
    rw [readElement_outWrite_other _ _ hidx]
    exact hmem i (by omega)

/-- What both element steps share: they record CUR and count IDX; the CUR they leave behind is the seed iterated
`min(IDX + 1, ROUNDS - 1)` times, and the invariant says nothing of DIG. -/
theorem ChainInv.recordCur_bumpIdx (hi : ChainInv s) (h : s.idx.toNat < s.rounds.toNat) (cur : OtpPair)
    (dig : Digest)
    (hcur : pack cur = otpIterate (pack s.seed) (min (s.idx.toNat + 1) (s.rounds.toNat - 1))) :
    ChainInv { bumpIdx (recordCur s) with cur := cur, dig := dig } := by
  have hidx : (s.idx + 1#32).toNat = s.idx.toNat + 1 := idx_succ_toNat h
  have hmem := hi.readElement_recordCur h
  obtain ⟨hmax, hcap, -, -, -⟩ := hi
  exact ⟨hmax, hcap, BitVec.le_def.mpr (hidx ▸ h), hidx.symm ▸ hcur, hmem⟩

theorem chainInv_advance_recordCur (hi : ChainInv s) (h : s.idx.toNat + 1 < s.rounds.toNat) :
    ChainInv (advance (recordCur s)) := by
  have hlt : s.idx.toNat < s.rounds.toNat := by omega
  refine hi.recordCur_bumpIdx hlt (otpRound s.cur) (compress s.cur) ?_
  rw [pack_otpRound, hi.pack_cur hlt, Nat.min_eq_left (by omega), otpIterate]

/-- The last element step leaves CUR at `ROUNDS - 1` iterations, where the minimum of the invariant stops. -/
theorem chainInv_bumpIdx_recordCur (hi : ChainInv s) (h : s.idx.toNat + 1 = s.rounds.toNat) :
    ChainInv (bumpIdx (recordCur s)) := by
  have hlt : s.idx.toNat < s.rounds.toNat := by omega
  refine hi.recordCur_bumpIdx hlt s.cur s.dig ?_
  rw [hi.pack_cur hlt, Nat.min_eq_right (by omega), ← h, Nat.add_sub_cancel]

theorem chainInv_elementStep (hi : ChainInv s) (h : s.idx.toNat < s.rounds.toNat) :
    ChainInv (elementStep s) := by
  rcases Nat.lt_or_eq_of_le (Nat.succ_le_of_lt h) with hnext | hlast
  · exact elementStep_advances hnext ▸ chainInv_advance_recordCur hi hnext
  · exact elementStep_last hlast ▸ chainInv_bumpIdx_recordCur hi hlast

/-- Completion changes STATUS only, which the invariant does not speak of. -/
theorem chainInv_complete (hi : ChainInv s) : ChainInv (complete s) :=
  hi

/-- In range and within the launch premise, the platform's buffer has element IDX (`70_reset_and_hazards.md`
R236). -/
theorem ChainInv.idx_lt_outSize (hi : ChainInv s) (hbuf : BufferPremise s)
    (h : s.idx.toNat < s.rounds.toNat) : s.idx.toNat < s.params.outSize := by
  obtain ⟨-, hcap, -, -, -⟩ := hi
  exact Nat.lt_of_lt_of_le (Nat.lt_of_lt_of_le h (BitVec.le_def.mp hcap)) hbuf

/-- The step of CHAIN keeps the loop invariant, a stalled one by keeping the whole state. -/
theorem chainInv_stepChain (hi : ChainInv s) (hbuf : BufferPremise s) :
    ∃ t, stepChain s = .next t ∧ ChainInv t := by
  rcases stepChain_cases s with ⟨-, he⟩ | ⟨-, -, he⟩ | ⟨h, -, -, he⟩ | ⟨h, -, ho, -⟩
  · exact ⟨_, he, chainInv_complete hi⟩
  · exact ⟨_, he, hi⟩
  · exact ⟨_, he, chainInv_elementStep hi h⟩
  · exact absurd (hi.idx_lt_outSize hbuf h) (Nat.not_lt.mpr ho)

end

/-! ### CHAIN -/

/-- Settles O11: an acceptance establishes the invariant by `chainInv_loadSeed_accept`; an element step is
`recordCur` with `advance` or, for the last element, with `bumpIdx`, which are the written states by definition;
`chainInv_stepChain` keeps the invariant. -/
theorem chainStepRecordsThenAdvances : Obligations.ChainStepRecordsThenAdvances := by
  refine ⟨fun s hb hr hc => ?_, fun s hb => ?_⟩
  · rw [exec_chain_idle hb, acceptChain_accepts (BitVec.le_def.mp hr) (BitVec.le_def.mp hc)]
    exact ⟨_, rfl, chainInv_loadSeed_accept 5#4 hr hc⟩
  · rw [exec_chain_busy hb]
    refine ⟨fun h hp ho hnext => ?_, fun h hp ho hlast => ?_,
      fun h => stepChain_done (BitVec.le_def.mp h), chainInv_stepChain⟩
    · rw [BitVec.lt_def] at h hnext
      rw [stepChain_element h hp ho, elementStep_advances (idx_succ_toNat h ▸ hnext)]
      rfl
    · rw [BitVec.lt_def] at h
      rw [BitVec.le_def, idx_succ_toNat h] at hlast
      rw [stepChain_element h hp ho, elementStep_last (by omega)]
      rfl

/-- Settles O10: the idle clauses are the three cases of the acceptance, whose states are the written ones by
definition; while busy the step is no fault by `stepChain_not_fault` and keeps ERR and ERRCODE by
`stepChain_err_errcode`. -/
theorem chainAcceptanceChecksRoundsThenCapacity :
    Obligations.ChainAcceptanceChecksRoundsThenCapacity := by
  refine ⟨rfl, fun s hb => ?_, fun s hb => ?_⟩
  · rw [exec_chain_idle hb]
    exact ⟨fun h => congrArg Host.Outcome.next (acceptChain_rejects_roundsRange (BitVec.lt_def.mp h)),
      fun hr hc => congrArg Host.Outcome.next
        (acceptChain_rejects_capacity (BitVec.le_def.mp hr) (BitVec.lt_def.mp hc)),
      fun hr hc => congrArg Host.Outcome.next
        (acceptChain_accepts (BitVec.le_def.mp hr) (BitVec.le_def.mp hc))⟩
  · rw [exec_chain_busy hb]
    exact ⟨stepChain_not_fault, fun _ => stepChain_err_errcode⟩

end Sys2Proof.Machine
end

section
/-! PROOFS. The exceptions family: the write dropped while busy, and how long a fault stays in STATUS. -/

namespace Sys2Proof.Machine

/-! ### A host write while busy (`60_exceptions.md` R204) -/

theorem writeReg_of_busy {s : State} (r : Reg) (v : Word) (hb : s.status.busy = true) :
    writeReg r v s = .next (dropWrite s) := if_pos hb

/-- Settles O26: every word offset of the window is a register's, and a busy block drops the write to it. -/
theorem writeWhileBusyIsDropped : Obligations.WriteWhileBusyIsDropped := by
  intro s off v rest hb halign hoff
  obtain ⟨r, -, rfl⟩ := exists_reg_of_accessWf ((accessWf_iff off 4).mpr ⟨rfl, halign, hoff⟩)
  exact (runEvent_write r v rest _).trans (writeReg_of_busy (s := setEvents rest s) r v hb)

/-! ### The fault of a command write to an idle block (`60_exceptions.md` R201 to R203, R206) -/

/-- The fault of a command's operand checks, in the order of R206; none for the commands without one. -/
def operandFault (i : Instr) (s : State) : Option CmdFault :=
  match i with
  | .compress | .fold | .round => none
  | .iterate => if roundsOutOfRange s then some .roundsRange else none
  | .chain =>
    if roundsOutOfRange s then some .roundsRange
    else if capacityTooSmall s then some .capacity
    else none

/-- The fault of a command word, if it has one. -/
def commandFault (w : Word) (s : State) : Option CmdFault :=
  match decode w with
  | .instr i => operandFault i s
  | .reject _ => some .illegalCmd

section
variable {s : State} {f : CmdFault} {i : Instr} {w : Word}

/-- The fault depends on the word and on the operands only, which neither a rejection nor the
queue changes. -/
theorem commandFault_reject (q : List Event) :
    commandFault w (reject f (setEvents q s)) = commandFault w s := rfl

theorem acceptIterate_eq_elim_operandFault :
    acceptIterate s = (operandFault .iterate s).elim (loadSeed (accept 4#4 s)) (reject · s) := by
  unfold acceptIterate operandFault
  split_ifs <;> rfl

theorem acceptChain_eq_elim_operandFault :
    acceptChain s = (operandFault .chain s).elim (loadSeed (accept 5#4 s)) (reject · s) := by
  unfold acceptChain operandFault
  split_ifs <;> rfl

theorem exec_of_operandFault (hb : s.status.busy = false) (h : operandFault i s = some f) :
    exec i s = .next (reject f s) := by
  cases i with
  | compress | fold | round => cases h
  | iterate => rw [exec_iterate_idle hb, acceptIterate_eq_elim_operandFault, h, Option.elim_some]
  | chain => rw [exec_chain_idle hb, acceptChain_eq_elim_operandFault, h, Option.elim_some]

theorem exec_of_no_operandFault (hb : s.status.busy = false) (h : operandFault i s = none) :
    ∃ t, exec i s = .next t ∧ t.status = statusAccepted s.status := by
  cases i with
  | compress => exact ⟨_, exec_compress_idle hb, rfl⟩
  | fold => exact ⟨_, exec_fold_idle hb, rfl⟩
  | round => exact ⟨_, exec_round_idle hb, rfl⟩
  | iterate => exact ⟨_, exec_iterate_idle hb, by rw [acceptIterate_eq_elim_operandFault, h]; rfl⟩
  | chain => exact ⟨_, exec_chain_idle hb, by rw [acceptChain_eq_elim_operandFault, h]; rfl⟩

theorem commandWrite_of_fault (hb : s.status.busy = false) (h : commandFault w s = some f) :
    commandWrite w s = .next (reject f s) := by
  unfold commandFault at h
  unfold commandWrite
  cases hd : decode w with
  | instr i =>
    rw [hd] at h
    exact exec_of_operandFault hb h
  | reject why =>
    rw [hd] at h
    cases h
    rfl

theorem commandWrite_of_no_fault (hb : s.status.busy = false) (h : commandFault w s = none) :
    ∃ t, commandWrite w s = .next t ∧ t.status = statusAccepted s.status := by
  unfold commandFault at h
  unfold commandWrite
  cases hd : decode w with
  | instr i =>
    rw [hd] at h
    exact exec_of_no_operandFault hb h
  | reject why =>
    rw [hd] at h
    cases h

end

/-! ### ERR and ERRCODE stay until the next command write (`60_exceptions.md` R208) -/

/-- A step of an idle block that is neither a CMD write nor Reset leaves STATUS alone. -/
theorem step_status_of_idle {s t : State} (hb : s.status.busy = false) (h : step s = .next t)
    (hcmd : ∀ (w : Word) (rest : List Event), s.events ≠ .hostWrite 0x00 4 w :: rest)
    (hreset : ∀ rest : List Event, s.events ≠ .reset :: rest) : t.status = s.status := by
  cases step_cases h with
  | command w q _ hq _ => exact absurd hq (hcmd w q)
  | reset q hq _ => exact absurd hq (hreset q)
  | core q hbusy _ _ => simp [hb] at hbusy
  | dropped r v q hbusy _ _ => simp [hb] at hbusy
  | idle q _ _ ht => simp [ht]
  | stored r v q _ _ _ ht => simp [ht]
  | read r q _ ht => simp [ht]
  | outPort b q _ ht => simp [ht]

theorem faultCode_mem (f : CmdFault) : faultCode f ∈ [1#4, 2#4, 3#4] := by
  cases f <;> decide

/-- A CMD write of a word with the fault `f` rejects it with that fault. -/
theorem step_commandWrite_of_fault {s : State} {f : CmdFault} {w : Word} {rest : List Event}
    (hb : s.status.busy = false) (hq : s.events = .hostWrite 0x00 4 w :: rest)
    (hf : commandFault w s = some f) : step s = .next (reject f (setEvents rest s)) :=
  (step_commandWrite hb hq).trans (commandWrite_of_fault (s := setEvents rest s) hb hf)

/-- A CMD write to an idle block is the rejection with the word's fault, or has none and is an acceptance. -/
theorem step_commandWrite_cases {s t : State} {w : Word} {rest : List Event} (hb : s.status.busy = false)
    (hq : s.events = .hostWrite 0x00 4 w :: rest) (h : step s = .next t) :
    (∃ f, commandFault w s = some f ∧ t = reject f (setEvents rest s)) ∨
    (commandFault w s = none ∧ t.status = statusAccepted s.status) := by
  cases hf : commandFault w s with
  | some f =>
    cases (step_commandWrite_of_fault hb hq hf).symm.trans h
    exact .inl ⟨f, rfl, rfl⟩
  | none =>
    rw [step_commandWrite hb hq] at h
    obtain ⟨t', ht', hst⟩ := commandWrite_of_no_fault (s := setEvents rest s) hb hf
    cases ht'.symm.trans h
    exact .inr ⟨rfl, hst⟩

/-- Settles O32: the other events by `step_status_of_idle`, a CMD write by the word's fault, and the repeated
write because a rejection leaves that fault as it was (`commandFault_reject`). -/
theorem faultStaysUntilTheNextCommand : Obligations.FaultStaysUntilTheNextCommand := by
  refine ⟨fun s t => step_status_of_idle, fun s t w rest hb hq h => ?_, fun s t w rest hb hq h herr => ?_⟩
  · rcases step_commandWrite_cases hb hq h with ⟨f, -, rfl⟩ | ⟨-, hst⟩
    · exact .inr ⟨hb, rfl, rfl, faultCode_mem f⟩
    · rw [hst]
      exact .inl ⟨rfl, rfl, rfl, rfl⟩
  · rcases step_commandWrite_cases hb hq h with ⟨f, hf, rfl⟩ | ⟨-, hst⟩
    · exact ⟨_, step_commandWrite_of_fault hb rfl ((commandFault_reject _).trans hf), rfl⟩
    · simp [hst] at herr

end Sys2Proof.Machine
end

section
/-! PROOFS. The reset family: Reset of a busy block, and of a CHAIN between two of its element steps. -/

namespace Sys2Proof.Machine

/-! ### A run whose last event is Reset -/

theorem run_idle {s : State} (hb : s.status.busy = false) (he : s.events = []) (j : Nat) :
    core.run j s = .next s := by
  induction j with
  | zero => rfl
  | succ j ih => rw [run_succ j (step_nil_idle hb he), ih]

/-- Once Reset has emptied the queue the block is idle and stays as Reset left it. -/
theorem run_reset {s : State} (he : s.events = [.reset]) (j : Nat) :
    core.run (1 + j) s = .next (resetBlock (setEvents [] s)) := by
  rw [Nat.add_comm, run_succ j (step_reset he)]
  exact run_idle rfl rfl j

/-! ### The element step: what it counts, writes and keeps (`44_chain_generator.md` R187) -/

/-- Two states that agree on what neither the acceptance nor an element step of CHAIN changes: the operands, the
platform's side, and what the host has read. -/
structure SameOperands (s t : State) : Prop where
  seed       : t.seed = s.seed
  rounds     : t.rounds = s.rounds
  capacity   : t.capacity = s.capacity
  params     : t.params = s.params
  outStalled : t.outStalled = s.outStalled
  reads      : t.reads = s.reads
  draws      : t.draws = s.draws

section
variable (s : State)

@[simp] theorem elementStep_idx : (elementStep s).idx = s.idx + 1#32 := by
  unfold elementStep
  split <;> rfl

@[simp] theorem elementStep_mem : (elementStep s).mem = outWrite s.mem s.idx (pack s.cur) := by
  unfold elementStep
  split <;> rfl

@[simp] theorem elementStep_events : (elementStep s).events = s.events := by
  unfold elementStep
  split <;> rfl

end

/-- The element step of the core's turn, which has taken its event off the queue. -/
theorem SameOperands.elementStep {s t : State} (h : SameOperands s t) (q : List Event) :
    SameOperands s (elementStep (setEvents q t)) := by
  unfold Machine.elementStep
  split <;> exact ⟨h.seed, h.rounds, h.capacity, h.params, h.outStalled, h.reads, h.draws⟩

/-! ### A CHAIN after a prefix of its element steps (`70_reset_and_hazards.md` R231) -/

/-- `t` is the CHAIN accepted in `s` after `k` of its element steps: in progress, with the loop invariant of R187,
and with nothing written from element `k` on. -/
structure ChainPrefix (s : State) (k : Nat) (t : State) : Prop where
  busy : t.status.busy = true
  opl  : t.opl = Instr.opcode .chain
  idx  : t.idx.toNat = k
  inv  : ChainInv t
  same : SameOperands s t
  tail : ∀ addr, 8 * k ≤ addr → readByte t.mem addr = readByte s.mem addr

section
variable {s t : State} {k : Nat} {q : List Event}

theorem ChainPrefix.idx_lt_rounds (hp : ChainPrefix s k t) (hk : k < s.rounds.toNat) :
    t.idx.toNat < t.rounds.toNat := by
  rwa [hp.idx, hp.same.rounds]

theorem ChainPrefix.bufferPremise (hp : ChainPrefix s k t) (hbuf : BufferPremise s) : BufferPremise t := by
  unfold BufferPremise
  rwa [hp.same.capacity, hp.same.params]

theorem ChainPrefix.readElement_mem (hp : ChainPrefix s k t) {i : Nat} (hi : i < k) :
    readElement t.mem i = some (otpIterate (pack s.seed) i) := by
  obtain ⟨-, -, -, -, helements⟩ := hp.inv
  rw [helements i (hp.idx.symm ▸ hi), hp.same.seed]

/-- Reset keeps what the CHAIN has written, and of the rest only what CHAIN leaves alone. -/
theorem ChainPrefix.resetBlock_eq (hp : ChainPrefix s k t) :
    resetBlock (setEvents [] t) = { State.reset with
      mem := t.mem, params := s.params, outStalled := s.outStalled, reads := s.reads, draws := s.draws } := by
  rw [← hp.same.params, ← hp.same.outStalled, ← hp.same.reads, ← hp.same.draws]
  rfl

/-- An accepted CHAIN has written nothing. -/
theorem step_chain_acceptance (hb : s.status.busy = false) (hr : s.rounds ≤ s.params.maxRounds)
    (hc : s.rounds ≤ s.capacity) (he : s.events = lineCmd .chain :: q) :
    ∃ t, step s = .next t ∧ ChainPrefix s 0 t ∧ t.events = q := by
  refine ⟨loadSeed (accept 5#4 (setEvents q s)), ?_,
    ⟨rfl, rfl, rfl, chainInv_loadSeed_accept 5#4 hr hc,
      ⟨rfl, rfl, rfl, rfl, rfl, rfl, rfl⟩, fun _ _ => rfl⟩, rfl⟩
  rw [step_commandWrite hb he]
  calc commandWrite (encode .chain) (setEvents q s)
    _ = exec .chain (setEvents q s) := rfl
    _ = .next (acceptChain (setEvents q s)) := exec_chain_idle hb
    _ = .next (loadSeed (accept 5#4 (setEvents q s))) := congrArg Host.Outcome.next
        (acceptChain_accepts (s := setEvents q s) (BitVec.le_def.mp hr) (BitVec.le_def.mp hc))

/-- The core's turn, with an element left and a port that performs writes, is the element step. -/
theorem ChainPrefix.step_eq (hp : ChainPrefix s k t) (hbuf : BufferPremise s) (hport : s.outStalled = false)
    (hk : k < s.rounds.toNat) (he : t.events = .core :: q) :
    step t = .next (elementStep (setEvents q t)) := by
  have hlt := hp.idx_lt_rounds hk
  calc step t
    _ = coreStep (setEvents q t) := step_core_busy hp.busy he
    _ = exec .chain (setEvents q t) := coreStep_of_opl hp.opl
    _ = stepChain (setEvents q t) := exec_chain_busy hp.busy
    _ = .next (elementStep (setEvents q t)) := stepChain_element hlt (hp.same.outStalled.trans hport)
        (hp.inv.idx_lt_outSize (hp.bufferPremise hbuf) hlt)

/-- The element step makes the prefix one element longer and leaves the bytes behind it alone. -/
theorem ChainPrefix.elementStep (hp : ChainPrefix s k t) (hk : k < s.rounds.toNat) :
    ChainPrefix s (k + 1) (elementStep (setEvents q t)) := by
  have hlt := hp.idx_lt_rounds hk
  refine ⟨?_, ?_, ?_, chainInv_elementStep (s := setEvents q t) hp.inv hlt,
    hp.same.elementStep q, fun addr haddr => ?_⟩
  · simpa using hp.busy
  · simpa using hp.opl
  · rw [elementStep_idx, setEvents_idx, idx_succ_toNat hlt, hp.idx]
  · have hidx := hp.idx
    rw [elementStep_mem, setEvents_mem, setEvents_idx, readByte_outWrite, elementAddr, if_neg (by omega)]
    exact hp.tail addr (by omega)

/-- `n` turns of the core, as long as elements are left, make the prefix `n` elements longer. -/
theorem ChainPrefix.run (hp : ChainPrefix s k t) (hbuf : BufferPremise s) (hport : s.outStalled = false)
    (n : Nat) (hn : k + n ≤ s.rounds.toNat) (he : t.events = List.replicate n .core ++ q) :
    ∃ u : State, core.run n t = .next u ∧ ChainPrefix s (k + n) u ∧ u.events = q := by
  induction n generalizing k t with
  | zero => exact ⟨t, rfl, hp, he⟩
  | succ n ih =>
    have hk : k < s.rounds.toNat := by omega
    obtain ⟨u, hrun, hu, hq⟩ := ih (hp.elementStep hk) (by omega) (elementStep_events _)
    rw [show k + 1 + n = k + (n + 1) by omega] at hu
    exact ⟨u, (run_succ n (hp.step_eq hbuf hport hk he)).trans hrun, hu, hq⟩

end

/-- Settles O34: Reset of any block empties the queue and leaves it idle (`run_reset`); a CHAIN is the
acceptance, then `ChainPrefix.run` over its `k` core turns, then the same Reset. -/
theorem resetAbandonsAChainAfterAPrefix : Obligations.ResetAbandonsAChainAfterAPrefix := by
  refine ⟨fun s _ he => ⟨_, step_reset he, rfl, rfl, rfl, rfl, run_reset he⟩,
    fun s k hb hr hc hbuf hport hk he => ?_⟩
  obtain ⟨t, hstep, hstart, hq⟩ := step_chain_acceptance hb hr hc he
  obtain ⟨u, hrun, hprefix, hreset⟩ := hstart.run hbuf hport k (by omega) hq
  rw [Nat.zero_add] at hprefix
  have hall : ∀ j, core.run (k + 2 + j) s = .next (resetBlock (setEvents [] u)) := fun j => by
    rw [show k + 2 + j = k + (1 + j) + 1 by omega, run_succ _ hstep, run_add (1 + j) hrun, run_reset hreset]
  exact ⟨u.mem, hprefix.resetBlock_eq ▸ hall 0, fun i hi => hprefix.readElement_mem hi, hprefix.tail,
    fun j => (hall j).trans (hall 0).symm⟩

end Sys2Proof.Machine
end

section
/-! PROOFS. The invariant of the machine: what a step can do to STATUS and to the state of the block, and the
invariant kept by every step. -/

namespace Sys2Proof.Machine

/-! ### The STATUS invariants, one lemma per change of STATUS (`10_state.md` R27, R28) -/

theorem faultCode_ne_zero (f : CmdFault) : faultCode f ≠ 0#4 := by
  cases f <;> decide

theorem faultCode_le_three (f : CmdFault) : faultCode f ≤ 3#4 := by
  cases f <;> decide

section
variable {st : Status}

theorem statusInv_reset : StatusInv Status.reset := by
  unfold StatusInv
  decide

theorem statusInv_accepted (st : Status) : StatusInv (statusAccepted st) := by
  simp [StatusInv]

/-- A rejection happens while idle, so ERR is then the only flag. -/
theorem statusInv_rejected (f : CmdFault) (hb : st.busy = false) : StatusInv (statusRejected f st) := by
  simp [StatusInv, hb, faultCode_ne_zero, faultCode_le_three]

/-- A completion happens while busy, when ERR is 0. -/
theorem statusInv_completed (h : StatusInv st) (hb : st.busy = true) : StatusInv (statusCompleted st) := by
  obtain ⟨-, hbe, -, hcode, hle⟩ := h
  simp only [hb, true_and] at hbe
  simp [StatusInv, hbe, hcode, hle]

theorem statusInv_writeLost (h : StatusInv st) : StatusInv (statusWriteLost st) := h

end

/-! ### A command write to an idle block, by the state it leaves -/

/-- A command write to an idle block leaves a rejection, or an acceptance, which for ITERATE and CHAIN has loaded
CUR from SEED. -/
theorem commandWrite_next_cases {s t : State} {w : Word} (hb : s.status.busy = false)
    (h : commandWrite w s = .next t) :
    (∃ f, t = reject f s) ∨ (∃ op, t = accept op s ∧ op ∈ [1#4, 2#4, 3#4]) ∨
    (decode w = .instr .iterate ∧ s.rounds ≤ s.params.maxRounds ∧ t = loadSeed (accept 4#4 s)) ∨
    (decode w = .instr .chain ∧ s.rounds ≤ s.params.maxRounds ∧ s.rounds ≤ s.capacity ∧
      t = loadSeed (accept 5#4 s)) := by
  rcases commandWrite_cases w hb with ⟨f, hc⟩ | ⟨i, hi, -, hc⟩ | ⟨hd, hr, hc⟩ | ⟨hd, hr, hcap, hc⟩ <;>
    cases hc.symm.trans h
  · exact .inl ⟨f, rfl⟩
  · refine .inr (.inl ⟨_, rfl, ?_⟩)
    rcases hi with rfl | rfl | rfl <;> decide
  · exact .inr (.inr (.inl ⟨hd, BitVec.le_def.mpr hr, rfl⟩))
  · exact .inr (.inr (.inr ⟨hd, BitVec.le_def.mpr hr, BitVec.le_def.mpr hcap, rfl⟩))

/-! ### The invariant -/

section
variable {s t : State}

/-- The queue is no part of the invariant. -/
theorem Inv.setEvents (h : Inv s) (q : List Event) : Inv (setEvents q s) :=
  ⟨h.status, h.running, h.memory⟩

/-- An idle block needs no loop invariant. -/
theorem Inv.of_idle (hb : t.status.busy = false) (hst : StatusInv t.status)
    (hm : Memory.wf t.mem = true) : Inv t :=
  ⟨hst, fun hbusy => by simp [hb] at hbusy, hm⟩

theorem Inv.of_completed (h : Inv s) (hb : s.status.busy = true)
    (hst : t.status = statusCompleted s.status) (hm : t.mem = s.mem) : Inv t :=
  .of_idle (by simp [hst]) (hst ▸ statusInv_completed h.status hb) (hm ▸ h.memory)

theorem RunningInv.iterateInv (h : RunningInv s) (ho : s.opl = 4#4) : IterateInv s := by
  rcases h with ⟨h, -⟩ | ⟨h, -⟩ | ⟨h, -⟩ | ⟨-, h⟩ | ⟨h, -⟩
  · simp [ho, Instr.opcode] at h
  · simp [ho, Instr.opcode] at h
  · simp [ho, Instr.opcode] at h
  · exact h
  · simp [ho, Instr.opcode] at h

theorem RunningInv.chainInv (h : RunningInv s) (ho : s.opl = 5#4) : ChainInv s := by
  rcases h with ⟨h, -⟩ | ⟨h, -⟩ | ⟨h, -⟩ | ⟨h, -⟩ | ⟨-, h⟩
  · simp [ho, Instr.opcode] at h
  · simp [ho, Instr.opcode] at h
  · simp [ho, Instr.opcode] at h
  · simp [ho, Instr.opcode] at h
  · exact h

theorem RunningInv.of_iterateInv (ho : s.opl = 4#4) (h : IterateInv s) : RunningInv s :=
  .inr (.inr (.inr (.inl ⟨ho, h⟩)))

theorem RunningInv.of_chainInv (ho : s.opl = 5#4) (h : ChainInv s) : RunningInv s :=
  .inr (.inr (.inr (.inr ⟨ho, h⟩)))

theorem runningInv_accept {op : BitVec 4} (h : op ∈ [1#4, 2#4, 3#4]) (s : State) :
    RunningInv (accept op s) := by
  simp only [List.mem_cons, List.not_mem_nil, or_false] at h
  rcases h with rfl | rfl | rfl
  · exact .inl ⟨rfl, rfl⟩
  · exact .inr (.inl ⟨rfl, rfl⟩)
  · exact .inr (.inr (.inl ⟨rfl, rfl⟩))

theorem Inv.commandWrite {w : Word} (h : Inv s) (hb : s.status.busy = false)
    (hc : commandWrite w s = .next t) : Inv t := by
  rcases commandWrite_next_cases hb hc with ⟨f, rfl⟩ | ⟨op, rfl, hop⟩ | ⟨-, hr, rfl⟩ | ⟨-, hr, hcap, rfl⟩
  · exact .of_idle hb (statusInv_rejected f hb) h.memory
  · exact ⟨statusInv_accepted _, fun _ => runningInv_accept hop s, h.memory⟩
  · exact ⟨statusInv_accepted _, fun _ => .of_iterateInv rfl (iterateInv_loadSeed_accept 4#4 hr), h.memory⟩
  · exact ⟨statusInv_accepted _, fun _ => .of_chainInv rfl (chainInv_loadSeed_accept 5#4 hr hcap), h.memory⟩

/-- A `CoreStep` completes the command, or keeps its loop invariant. -/
theorem Inv.coreStep (h : Inv s) (hb : s.status.busy = true) (hc : coreStep s = .next t) : Inv t := by
  have hrun := h.running hb
  rcases coreStep_cases hb hc with ⟨-, rfl⟩ | ⟨-, rfl⟩ | ⟨-, rfl⟩ | ⟨ho, hlt, rfl⟩ | ⟨-, -, rfl⟩ |
    ⟨ho, hlt, -, -, rfl⟩ | ⟨-, -, -, rfl⟩ | ⟨-, -, rfl⟩
  · exact h.of_completed hb rfl rfl
  · exact h.of_completed hb rfl rfl
  · exact h.of_completed hb rfl rfl
  · exact ⟨h.status, fun _ => .of_iterateInv ho (iterateInv_advance (hrun.iterateInv ho) hlt), h.memory⟩
  · exact h.of_completed hb rfl rfl
  · exact ⟨(elementStep_status s).symm ▸ h.status,
      fun _ => .of_chainInv ((elementStep_opl s).trans ho) (chainInv_elementStep (hrun.chainInv ho) hlt),
      (elementStep_mem s).symm ▸ outWrite_keeps_wf _ _ _ h.memory⟩
  · exact h
  · exact h.of_completed hb rfl rfl

end

/-- Settles O36, by the cases of a step: a command write and a `CoreStep` by the lemmas above; no other step
touches what the loop invariants speak of, unless it leaves the block idle. -/
theorem stepKeepsTheInvariant : Obligations.StepKeepsTheInvariant := by
  intro s t hi h
  cases step_cases h with
  | idle q _ _ ht => exact ht ▸ hi.setEvents q
  | core q hb _ hc => exact (hi.setEvents q).coreStep hb hc
  | dropped r v q _ _ ht => exact ht ▸ ⟨statusInv_writeLost hi.status, hi.running, hi.memory⟩
  | command w q hb _ hc => exact (hi.setEvents q).commandWrite hb hc
  | stored r v q hb _ _ ht =>
    subst ht
    exact .of_idle (by simpa using hb) (by simpa using hi.status) (by simpa using hi.memory)
  | read r q _ ht => exact ht ▸ ⟨hi.status, hi.running, hi.memory⟩
  | reset q _ ht => exact ht ▸ .of_idle rfl statusInv_reset hi.memory
  | outPort b q _ ht => exact ht ▸ ⟨hi.status, hi.running, hi.memory⟩

/-- Settles O35: the reset state is idle, nothing is listed in its OUT space, and CAPACITY is 0. -/
theorem resetMeetsTheInvariant : Obligations.ResetMeetsTheInvariant :=
  ⟨.of_idle rfl statusInv_reset rfl, Nat.zero_le _, rfl, rfl, rfl⟩

end Sys2Proof.Machine
end

section
/-! PROOFS. Constant shape (`70_reset_and_hazards.md` R244): every operation takes states that differ in data only to
states that differ in data only. -/

namespace Sys2Proof.Machine

/-! ### Which bytes of the OUT space are written -/

/-- The addresses listed after a byte has been written at `addr`. -/
def insertAddr (addr : Nat) : List Nat → List Nat
  | [] => [addr]
  | a :: rest =>
    if addr < a then addr :: a :: rest
    else if addr = a then addr :: rest
    else a :: insertAddr addr rest

theorem map_fst_writeByte (m : Memory) (addr : Nat) (v : Byte) :
    (writeByte m addr v).map Prod.fst = insertAddr addr (m.map Prod.fst) := by
  induction m with
  | nil => rfl
  | cons c rest ih =>
    simp only [writeByte, insertAddr, List.map_cons]
    split_ifs
    · rfl
    · rfl
    · rw [List.map_cons, ih]

theorem map_fst_writeBytes {m m' : Memory} (addr : Nat) (v v' : BitVec 64) (n : Nat)
    (h : m.map Prod.fst = m'.map Prod.fst) :
    (writeBytes m addr v n).map Prod.fst = (writeBytes m' addr v' n).map Prod.fst := by
  induction n with
  | zero => exact h
  | succ n ih => rw [writeBytes, writeBytes, map_fst_writeByte, map_fst_writeByte, ih]

theorem map_fst_outWrite {m m' : Memory} (i : Word) (v v' : BitVec 64)
    (h : m.map Prod.fst = m'.map Prod.fst) :
    (outWrite m i v).map Prod.fst = (outWrite m' i v').map Prod.fst :=
  map_fst_writeBytes (elementAddr i) v v' 8 h

namespace SameShape

variable {s s' : State}

/-! ### The operations -/

theorem busy (h : SameShape s s') : s.status.busy = s'.status.busy :=
  congrArg Status.busy h.status

theorem accept (h : SameShape s s') (op : BitVec 4) : SameShape (accept op s) (accept op s') :=
  { h with status := congrArg statusAccepted h.status, idx := rfl, opl := rfl }

theorem reject (h : SameShape s s') (f : CmdFault) : SameShape (reject f s) (reject f s') :=
  { h with status := congrArg (statusRejected f) h.status }

theorem complete (h : SameShape s s') : SameShape (complete s) (complete s') :=
  { h with status := congrArg statusCompleted h.status }

theorem dropWrite (h : SameShape s s') : SameShape (dropWrite s) (dropWrite s') :=
  { h with status := congrArg statusWriteLost h.status }

theorem setEvents (h : SameShape s s') (q : List Event) : SameShape (setEvents q s) (setEvents q s') :=
  { h with events := rfl }

theorem setOutStalled (h : SameShape s s') (b : Bool) :
    SameShape (setOutStalled b s) (setOutStalled b s') :=
  { h with outStalled := rfl }

theorem resetBlock (h : SameShape s s') : SameShape (resetBlock s) (resetBlock s') :=
  { h with rounds := rfl, capacity := rfl, status := rfl, idx := rfl, opl := rfl }

/-- SEED goes to CUR: data to data. -/
theorem loadSeed (h : SameShape s s') : SameShape (loadSeed s) (loadSeed s') :=
  { h with }

theorem stepCompress (h : SameShape s s') : SameShape (stepCompress s) (stepCompress s') :=
  { h with status := congrArg statusCompleted h.status }

theorem stepFold (h : SameShape s s') : SameShape (stepFold s) (stepFold s') :=
  { h with status := congrArg statusCompleted h.status }

theorem stepRound (h : SameShape s s') : SameShape (stepRound s) (stepRound s') :=
  { h with status := congrArg statusCompleted h.status }

theorem advance (h : SameShape s s') : SameShape (advance s) (advance s') :=
  { h with idx := congrArg (· + 1#32) h.idx }

theorem bumpIdx (h : SameShape s s') : SameShape (bumpIdx s) (bumpIdx s') :=
  { h with idx := congrArg (· + 1#32) h.idx }

theorem recordCur (h : SameShape s s') : SameShape (recordCur s) (recordCur s') := by
  refine { h with written := ?_ }
  rw [recordCur_mem, recordCur_mem, h.idx]
  exact map_fst_outWrite _ _ _ h.written

theorem readIsDrawn_eq (h : SameShape s s') (r : Reg) : readIsDrawn r s = readIsDrawn r s' := by
  rw [readIsDrawn, readIsDrawn, h.busy]

theorem takeRead (h : SameShape s s') (r : Reg) : SameShape (takeRead r s) (takeRead r s') :=
  { h with draws := by rw [takeRead_draws, takeRead_draws, h.readIsDrawn_eq, h.draws] }

/-- The value written is one of ROUNDS and CAPACITY, and then the same, or it is data. -/
theorem storeReg (h : SameShape s s') (r : Reg) (v : Word) :
    SameShape (storeReg r v s) (storeReg r v s') := by
  cases r with
  | rounds => exact { h with rounds := rfl }
  | capacity => exact { h with capacity := rfl }
  | _ => exact { h with }

/-! ### The tests -/

theorem roundsOutOfRange_eq (h : SameShape s s') : roundsOutOfRange s = roundsOutOfRange s' := by
  rw [roundsOutOfRange, roundsOutOfRange, h.params, h.rounds]

theorem capacityTooSmall_eq (h : SameShape s s') : capacityTooSmall s = capacityTooSmall s' := by
  rw [capacityTooSmall, capacityTooSmall, h.capacity, h.rounds]

theorem roundsRemain_eq (h : SameShape s s') : roundsRemain s = roundsRemain s' := by
  rw [roundsRemain, roundsRemain, h.idx, h.rounds]

theorem anotherElementFollows_eq (h : SameShape s s') :
    anotherElementFollows s = anotherElementFollows s' := by
  rw [anotherElementFollows, anotherElementFollows, h.idx, h.rounds]

/-! ### The transitions -/

theorem acceptIterate (h : SameShape s s') : SameShape (acceptIterate s) (acceptIterate s') := by
  rw [Machine.acceptIterate, Machine.acceptIterate, h.roundsOutOfRange_eq]
  split_ifs
  · exact h.reject _
  · exact (h.accept _).loadSeed

theorem acceptChain (h : SameShape s s') : SameShape (acceptChain s) (acceptChain s') := by
  rw [Machine.acceptChain, Machine.acceptChain, h.roundsOutOfRange_eq, h.capacityTooSmall_eq]
  split_ifs
  · exact h.reject _
  · exact h.reject _
  · exact (h.accept _).loadSeed

theorem stepIterate (h : SameShape s s') : SameShape (stepIterate s) (stepIterate s') := by
  rw [Machine.stepIterate, Machine.stepIterate, h.roundsRemain_eq]
  split_ifs
  · exact h.advance
  · exact h.complete

theorem elementStep (h : SameShape s s') : SameShape (elementStep s) (elementStep s') := by
  rw [Machine.elementStep, Machine.elementStep, h.anotherElementFollows_eq]
  split_ifs
  · exact h.recordCur.advance
  · exact h.recordCur.bumpIdx

theorem stepChain (h : SameShape s s') : SameShapeOutcome (stepChain s) (stepChain s') := by
  rw [Machine.stepChain, Machine.stepChain, h.roundsRemain_eq, h.outStalled, h.idx, h.params]
  split_ifs
  · exact h
  · exact h.elementStep
  · rfl
  · exact h.complete

theorem exec (h : SameShape s s') (i : Instr) : SameShapeOutcome (exec i s) (exec i s') := by
  cases hb : s'.status.busy with
  | true =>
    have hb' := h.busy.trans hb
    cases i with
    | compress => exact exec_compress_busy hb' ▸ exec_compress_busy hb ▸ h.stepCompress
    | fold => exact exec_fold_busy hb' ▸ exec_fold_busy hb ▸ h.stepFold
    | round => exact exec_round_busy hb' ▸ exec_round_busy hb ▸ h.stepRound
    | iterate => exact exec_iterate_busy hb' ▸ exec_iterate_busy hb ▸ h.stepIterate
    | chain => exact exec_chain_busy hb' ▸ exec_chain_busy hb ▸ h.stepChain
  | false =>
    have hb' := h.busy.trans hb
    cases i with
    | compress => exact exec_compress_idle hb' ▸ exec_compress_idle hb ▸ h.accept _
    | fold => exact exec_fold_idle hb' ▸ exec_fold_idle hb ▸ h.accept _
    | round => exact exec_round_idle hb' ▸ exec_round_idle hb ▸ h.accept _
    | iterate => exact exec_iterate_idle hb' ▸ exec_iterate_idle hb ▸ h.acceptIterate
    | chain => exact exec_chain_idle hb' ▸ exec_chain_idle hb ▸ h.acceptChain

theorem coreStep (h : SameShape s s') : SameShapeOutcome (coreStep s) (coreStep s') := by
  rw [Machine.coreStep, Machine.coreStep, h.opl]
  split
  · exact h.exec _
  · rfl

theorem commandWrite (h : SameShape s s') (w : Word) :
    SameShapeOutcome (commandWrite w s) (commandWrite w s') := by
  rw [Machine.commandWrite, Machine.commandWrite]
  split
  · exact h.exec _
  · exact h.reject _

theorem writeReg (h : SameShape s s') (r : Reg) (v : Word) :
    SameShapeOutcome (writeReg r v s) (writeReg r v s') := by
  rw [Machine.writeReg, Machine.writeReg, h.busy]
  split_ifs
  · exact h.dropWrite
  · exact h.commandWrite v
  · exact h.storeReg r v

theorem coreTurn (h : SameShape s s') : SameShapeOutcome (coreTurn s) (coreTurn s') := by
  rw [Machine.coreTurn, Machine.coreTurn, h.busy]
  split_ifs
  · exact h.coreStep
  · exact h

theorem runEvent (h : SameShape s s') (e : Event) (q : List Event) :
    SameShapeOutcome (runEvent e q s) (runEvent e q s') := by
  have hq := h.setEvents q
  cases e with
  | hostWrite off width v =>
    rw [Machine.runEvent, Machine.runEvent, hostWrite, hostWrite]
    split
    · exact hq.writeReg _ v
    · rfl
  | hostRead off width =>
    rw [Machine.runEvent, Machine.runEvent, hostRead, hostRead]
    split
    · exact hq.takeRead _
    · rfl
  | wait =>
    rw [Machine.runEvent, Machine.runEvent, h.busy]
    split_ifs
    · exact h.coreStep
    · exact hq
  | core => exact hq.coreTurn
  | reset => exact hq.resetBlock
  | outPort b => exact hq.setOutStalled b

theorem step (h : SameShape s s') : SameShapeOutcome (step s) (step s') := by
  rw [Machine.step, Machine.step, h.events]
  split
  · exact h.coreTurn
  · exact h.runEvent _ _

end SameShape

/-- Settles O45: the queues are the same, and each event's transition keeps the shape. -/
theorem stepsDoNotBranchOnData : Obligations.StepsDoNotBranchOnData :=
  fun _ _ h => h.step

end Sys2Proof.Machine
end

section
/-! PROOFS. Decoding, and that a step runs the decoded command. -/

namespace Sys2Proof.Machine

/-! ### Decoding (`30_encoding.md` R91 to R95) -/

theorem wordFields_statement (i : Instr) : Laws.WordFields.Statement i := by
  cases i with
  | compress => exact Laws.WordFields.compress
  | fold => exact Laws.WordFields.fold
  | round => exact Laws.WordFields.round
  | iterate => exact Laws.WordFields.iterate
  | chain => exact Laws.WordFields.chain

section
variable {w : Word} {i : Instr}

theorem decode_eq_instr_of_fields (hz : w.extractLsb' 4 28 = 0#28) (ho : w.extractLsb' 0 4 = i.opcode) :
    decode w = .instr i := by
  have hz' : ¬ (fieldsOf w).zero ≠ 0#28 := not_not.mpr hz
  have ho' : (fieldsOf w).op = i.opcode := ho
  rw [decode, if_neg hz', ho', ofOpcode_opcode]

/-- A word is its two fields put together. -/
theorem word_of_fields_eq_encode (hz : w.extractLsb' 4 28 = 0#28) (ho : w.extractLsb' 0 4 = i.opcode) :
    w = encode i :=
  calc w
    _ = w.extractLsb' 4 28 ++ w.extractLsb' 0 4 :=
        (BitVec.extractLsb'_append_extractLsb' (w := 28) (len := 4) (x := w)).symm
    _ = encode i := by rw [hz, ho]; rfl

theorem decode_encode (i : Instr) : decode (encode i) = .instr i := by
  obtain ⟨hfields, -⟩ := wordFields_statement i
  exact decode_eq_instr_of_fields (congrArg CmdFields.zero hfields) (congrArg CmdFields.op hfields)

/-- The words that select a command are the five encodings. -/
theorem decode_eq_instr_iff : decode w = .instr i ↔ w = encode i := by
  constructor
  · intro h
    exact word_of_fields_eq_encode (zero_of_decode_eq_instr h) (op_of_decode_eq_instr h)
  · rintro rfl
    exact decode_encode i

/-- Decoding is total: a word that selects no command is rejected. -/
theorem exists_reject_of_decode_ne_instr (h : ∀ i, decode w ≠ .instr i) : ∃ why, decode w = .reject why := by
  cases hd : decode w with
  | instr i => exact absurd hd (h i)
  | reject why => exact ⟨why, rfl⟩

end

/-- Settles O3: a word whose fields are those of a command decodes to it, one with an illegal field to none
(`decode_ne_instr_of_illegal`). -/
theorem decoderSelectsExactlyTheFiveWords : Obligations.DecoderSelectsExactlyTheFiveWords := by
  refine fun w => ⟨fun hz => ?_, fun hz => ⟨?_, ?_, ?_, ?_, ?_, fun hop => ?_⟩, fun i => decode_eq_instr_iff⟩
  · exact exists_reject_of_decode_ne_instr (decode_ne_instr_of_illegal (.inl hz))
  · exact decode_eq_instr_of_fields (i := .compress) hz
  · exact decode_eq_instr_of_fields (i := .fold) hz
  · exact decode_eq_instr_of_fields (i := .round) hz
  · exact decode_eq_instr_of_fields (i := .iterate) hz
  · exact decode_eq_instr_of_fields (i := .chain) hz
  · have hop6 : w.extractLsb' 0 4 = 0#4 ∨ 6#4 ≤ w.extractLsb' 0 4 := hop.imp_right fun h => by bv_omega
    exact exists_reject_of_decode_ne_instr (decode_ne_instr_of_illegal (.inr hop6))

/-- Settles O1, by evaluating the decoder on the eleven words. -/
theorem decodedWordsAreTheTable : Obligations.DecodedWordsAreTheTable := by
  unfold Obligations.DecodedWordsAreTheTable
  decide

/-- Settles O2, by the fields of the command words. -/
theorem decodeOfEncodeIsTheCommand : Obligations.DecodeOfEncodeIsTheCommand := by
  intro i
  obtain ⟨-, hwf, -, -⟩ := wordFields_statement i
  exact ⟨decode_encode i, hwf⟩

/-! ### A step runs the decoded command (`20_memory.md` R62, `10_state.md` R31) -/

theorem commandWrite_of_instr {w : Word} {i : Instr} (h : decode w = .instr i) (s : State) :
    commandWrite w s = exec i s := by
  rw [commandWrite, h]

theorem coreStep_of_ofOpcode {s : State} {i : Instr} (h : Instr.ofOpcode s.opl = some i) :
    coreStep s = exec i s :=
  coreStep_of_opl ((ofOpcode_eq_some_iff _ _).mp h)

/-- A CMD line of a host program runs its command. -/
theorem step_lineCmd {s : State} {rest : List Event} {i : Instr} (hb : s.status.busy = false)
    (he : s.events = lineCmd i :: rest) : step s = exec i (setEvents rest s) :=
  (step_commandWrite hb he).trans (commandWrite_of_instr (decode_encode i) _)

/-- Settles O4: a CMD write by `commandWrite_of_instr`, the core's three kinds of turn by
`coreStep_of_ofOpcode`. -/
theorem stepRunsTheDecodedCommand : Obligations.StepRunsTheDecodedCommand := by
  refine ⟨fun s rest w i hb he hd => ?_, fun s i hb he hi => ?_, fun s rest i hb he hi => ?_,
    fun s rest i hb he hi => ?_⟩
  · exact (step_commandWrite hb he).trans (commandWrite_of_instr hd _)
  · exact (step_nil_busy hb he).trans (coreStep_of_ofOpcode hi)
  · exact (step_core_busy hb he).trans (coreStep_of_ofOpcode (s := setEvents rest s) hi)
  · exact (step_wait_busy hb he).trans (coreStep_of_ofOpcode hi)

end Sys2Proof.Machine
end

section
/-! PROOFS. The frame of a step: what a `CoreStep`, a command write and a plain host write change, and the rules of the
whole machine that follow. -/

namespace Sys2Proof.Machine

/-! ### What a `CoreStep` changes -/

section
variable {s t : State}

/-- The events at which the core has its turn: an empty queue, `core`, and `wait`. -/
def CoreHasTurn (s : State) : Prop :=
  s.events = [] ∨ (∃ rest, s.events = .core :: rest) ∨ (∃ rest, s.events = .wait :: rest)

theorem setEvents_self {q : List Event} (h : s.events = q) : setEvents q s = s := by
  subst h
  rfl

theorem step_eq_coreStep (hb : s.status.busy = true) (hq : CoreHasTurn s) :
    ∃ q, step s = coreStep (setEvents q s) := by
  rcases hq with he | ⟨q, he⟩ | ⟨q, he⟩
  · exact ⟨s.events, step_nil_busy hb he⟩
  · exact ⟨q, step_core_busy hb he⟩
  · exact ⟨s.events, step_wait_busy hb he⟩

theorem SameOperands.refl (s : State) : SameOperands s s :=
  ⟨rfl, rfl, rfl, rfl, rfl, rfl, rfl⟩

theorem coreStep_sameOperands (hb : s.status.busy = true) (h : coreStep s = .next t) : SameOperands s t := by
  rcases coreStep_cases hb h with ⟨-, rfl⟩ | ⟨-, rfl⟩ | ⟨-, rfl⟩ | ⟨-, -, rfl⟩ | ⟨-, -, rfl⟩ |
    ⟨-, -, -, -, rfl⟩ | ⟨-, -, -, rfl⟩ | ⟨-, -, rfl⟩
  case inr.inr.inr.inr.inr.inl => exact (SameOperands.refl s).elementStep s.events
  all_goals exact ⟨rfl, rfl, rfl, rfl, rfl, rfl, rfl⟩

theorem coreStep_events (hb : s.status.busy = true) (h : coreStep s = .next t) : t.events = s.events := by
  rcases coreStep_cases hb h with ⟨-, rfl⟩ | ⟨-, rfl⟩ | ⟨-, rfl⟩ | ⟨-, -, rfl⟩ | ⟨-, -, rfl⟩ |
    ⟨-, -, -, -, rfl⟩ | ⟨-, -, -, rfl⟩ | ⟨-, -, rfl⟩ <;> simp

/-- IDX stays, or a loop with a round left counts it. -/
theorem coreStep_idx (hb : s.status.busy = true) (h : coreStep s = .next t) :
    t.idx = s.idx ∨ ((s.opl = 4#4 ∨ s.opl = 5#4) ∧ s.idx < s.rounds ∧ t.idx = s.idx + 1#32) := by
  rcases coreStep_cases hb h with ⟨-, rfl⟩ | ⟨-, rfl⟩ | ⟨-, rfl⟩ | ⟨ho, hlt, rfl⟩ | ⟨-, -, rfl⟩ |
    ⟨ho, hlt, -, -, rfl⟩ | ⟨-, -, -, rfl⟩ | ⟨-, -, rfl⟩
  case inr.inr.inr.inl => exact .inr ⟨.inl ho, BitVec.lt_def.mpr hlt, rfl⟩
  case inr.inr.inr.inr.inr.inl => exact .inr ⟨.inr ho, BitVec.lt_def.mpr hlt, elementStep_idx s⟩
  all_goals exact .inl rfl

/-- CUR stays, except in FOLD, ROUND and the rounds of the loops. -/
theorem coreStep_cur (hb : s.status.busy = true) (h : coreStep s = .next t) :
    t.cur = s.cur ∨ s.opl = 2#4 ∨ s.opl = 3#4 ∨ ((s.opl = 4#4 ∨ s.opl = 5#4) ∧ s.idx < s.rounds) := by
  rcases coreStep_cases hb h with ⟨-, rfl⟩ | ⟨ho, rfl⟩ | ⟨ho, rfl⟩ | ⟨ho, hlt, rfl⟩ | ⟨-, -, rfl⟩ |
    ⟨ho, hlt, -, -, rfl⟩ | ⟨-, -, -, rfl⟩ | ⟨-, -, rfl⟩
  case inr.inl => exact .inr (.inl ho)
  case inr.inr.inl => exact .inr (.inr (.inl ho))
  case inr.inr.inr.inl => exact .inr (.inr (.inr ⟨.inl ho, BitVec.lt_def.mpr hlt⟩))
  case inr.inr.inr.inr.inr.inl => exact .inr (.inr (.inr ⟨.inr ho, BitVec.lt_def.mpr hlt⟩))
  all_goals exact .inl rfl

/-- DIG stays, except in COMPRESS, ROUND and the rounds of the loops. -/
theorem coreStep_dig (hb : s.status.busy = true) (h : coreStep s = .next t) :
    t.dig = s.dig ∨ s.opl = 1#4 ∨ s.opl = 3#4 ∨ ((s.opl = 4#4 ∨ s.opl = 5#4) ∧ s.idx < s.rounds) := by
  rcases coreStep_cases hb h with ⟨ho, rfl⟩ | ⟨-, rfl⟩ | ⟨ho, rfl⟩ | ⟨ho, hlt, rfl⟩ | ⟨-, -, rfl⟩ |
    ⟨ho, hlt, -, -, rfl⟩ | ⟨-, -, -, rfl⟩ | ⟨-, -, rfl⟩
  case inl => exact .inr (.inl ho)
  case inr.inr.inl => exact .inr (.inr (.inl ho))
  case inr.inr.inr.inl => exact .inr (.inr (.inr ⟨.inl ho, BitVec.lt_def.mpr hlt⟩))
  case inr.inr.inr.inr.inr.inl => exact .inr (.inr (.inr ⟨.inr ho, BitVec.lt_def.mpr hlt⟩))
  all_goals exact .inl rfl

/-- OUT stays, except in an element step of CHAIN. -/
theorem coreStep_mem (hb : s.status.busy = true) (h : coreStep s = .next t) :
    t.mem = s.mem ∨ (s.opl = 5#4 ∧ s.idx < s.rounds ∧ t.mem = outWrite s.mem s.idx (pack s.cur)) := by
  rcases coreStep_cases hb h with ⟨-, rfl⟩ | ⟨-, rfl⟩ | ⟨-, rfl⟩ | ⟨-, -, rfl⟩ | ⟨-, -, rfl⟩ |
    ⟨ho, hlt, -, -, rfl⟩ | ⟨-, -, -, rfl⟩ | ⟨-, -, rfl⟩
  case inr.inr.inr.inr.inr.inl => exact .inr ⟨ho, BitVec.lt_def.mpr hlt, elementStep_mem s⟩
  all_goals exact .inl rfl

/-- The steps that end BUSY are those of COMPRESS, FOLD and ROUND, and of a loop that has reached ROUNDS. -/
theorem coreStep_completes (hb : s.status.busy = true) (h : coreStep s = .next t)
    (ht : t.status.busy = false) :
    t.status.done = true ∧ (s.opl = 1#4 ∨ s.opl = 2#4 ∨ s.opl = 3#4 ∨ s.rounds ≤ s.idx) := by
  rcases coreStep_cases hb h with ⟨ho, rfl⟩ | ⟨ho, rfl⟩ | ⟨ho, rfl⟩ | ⟨-, -, rfl⟩ | ⟨-, hge, rfl⟩ |
    ⟨-, -, -, -, rfl⟩ | ⟨-, -, -, rfl⟩ | ⟨-, hge, rfl⟩
  · exact ⟨rfl, .inl ho⟩
  · exact ⟨rfl, .inr (.inl ho)⟩
  · exact ⟨rfl, .inr (.inr (.inl ho))⟩
  · simp [hb] at ht
  · exact ⟨rfl, .inr (.inr (.inr (BitVec.le_def.mpr hge)))⟩
  · simp [hb] at ht
  · simp [hb] at ht
  · exact ⟨rfl, .inr (.inr (.inr (BitVec.le_def.mpr hge)))⟩

/-! ### What a command write to an idle block changes -/

theorem commandWrite_sameOperands {w : Word} (hb : s.status.busy = false) (h : commandWrite w s = .next t) :
    SameOperands s t := by
  rcases commandWrite_next_cases hb h with ⟨f, rfl⟩ | ⟨op, rfl, -⟩ | ⟨-, -, rfl⟩ | ⟨-, -, -, rfl⟩ <;>
    exact ⟨rfl, rfl, rfl, rfl, rfl, rfl, rfl⟩

/-- A rejection keeps IDX and leaves the block idle; an acceptance sets IDX to 0. -/
theorem commandWrite_idx {w : Word} (hb : s.status.busy = false) (h : commandWrite w s = .next t) :
    (t.idx = s.idx ∧ t.status.busy = false) ∨ (t.idx = 0#32 ∧ t.status.busy = true) := by
  rcases commandWrite_next_cases hb h with ⟨f, rfl⟩ | ⟨op, rfl, -⟩ | ⟨-, -, rfl⟩ | ⟨-, -, -, rfl⟩
  · exact .inl ⟨rfl, hb⟩
  all_goals exact .inr ⟨rfl, rfl⟩

/-- CUR stays, unless ITERATE or CHAIN is accepted and loads it from SEED. -/
theorem commandWrite_cur {w : Word} (hb : s.status.busy = false) (h : commandWrite w s = .next t) :
    t.cur = s.cur ∨ (t.cur = s.seed ∧ t.status.busy = true ∧ (w = 4#32 ∨ w = 5#32)) := by
  rcases commandWrite_next_cases hb h with ⟨f, rfl⟩ | ⟨op, rfl, -⟩ | ⟨hd, -, rfl⟩ | ⟨hd, -, -, rfl⟩
  · exact .inl rfl
  · exact .inl rfl
  · exact .inr ⟨rfl, rfl, .inl (decode_eq_instr_iff.mp hd)⟩
  · exact .inr ⟨rfl, rfl, .inr (decode_eq_instr_iff.mp hd)⟩

theorem commandWrite_dig {w : Word} (hb : s.status.busy = false) (h : commandWrite w s = .next t) :
    t.dig = s.dig := by
  rcases commandWrite_next_cases hb h with ⟨f, rfl⟩ | ⟨op, rfl, -⟩ | ⟨-, -, rfl⟩ | ⟨-, -, -, rfl⟩ <;> rfl

theorem commandWrite_mem {w : Word} (hb : s.status.busy = false) (h : commandWrite w s = .next t) :
    t.mem = s.mem := by
  rcases commandWrite_next_cases hb h with ⟨f, rfl⟩ | ⟨op, rfl, -⟩ | ⟨-, -, rfl⟩ | ⟨-, -, -, rfl⟩ <;> rfl

end

/-! ### What a plain host write changes (`20_memory.md` R61, R63) -/

section
variable (r : Reg) (v : Word) (s : State)

theorem storeReg_seed_lo : (storeReg r v s).seed.lo = if r = .seedLo then v else s.seed.lo := by
  cases r <;> rfl

theorem storeReg_seed_hi : (storeReg r v s).seed.hi = if r = .seedHi then v else s.seed.hi := by
  cases r <;> rfl

theorem storeReg_rounds : (storeReg r v s).rounds = if r = .rounds then v else s.rounds := by
  cases r <;> rfl

theorem storeReg_capacity : (storeReg r v s).capacity = if r = .capacity then v else s.capacity := by
  cases r <;> rfl

theorem storeReg_dig : (storeReg r v s).dig = s.dig ∨ regOffset r ∈ [0x20, 0x24, 0x28, 0x2C] := by
  cases r <;> simp [storeReg, regOffset]

end

/-! ### What a step changes -/

/-- Two states whose block differs in STATUS at most, and there not in BUSY. -/
structure SameBlock (s t : State) : Prop where
  busy     : t.status.busy = s.status.busy
  seed     : t.seed = s.seed
  rounds   : t.rounds = s.rounds
  capacity : t.capacity = s.capacity
  cur      : t.cur = s.cur
  dig      : t.dig = s.dig
  idx      : t.idx = s.idx
  mem      : t.mem = s.mem

/-- A step that is not Reset is a `CoreStep`, a command write or a plain write to an idle block, or it leaves the
block as it was. -/
theorem step_block_cases {s t : State} (h : step s = .next t)
    (hr : ∀ rest : List Event, s.events ≠ .reset :: rest) :
    SameBlock s t ∨
    (s.status.busy = true ∧ CoreHasTurn s ∧ ∃ q, coreStep (setEvents q s) = .next t) ∨
    (s.status.busy = false ∧ ∃ w q, s.events = .hostWrite 0x00 4 w :: q ∧
      commandWrite w (setEvents q s) = .next t) ∨
    (s.status.busy = false ∧ ∃ r v q, s.events = .hostWrite (regOffset r) 4 v :: q ∧
      t = storeReg r v (setEvents q s)) := by
  cases step_cases h with
  | core q hb hq hc =>
    refine .inr (.inl ⟨hb, ?_, q, hc⟩)
    rcases hq with ⟨he, -⟩ | he | ⟨rest, he, -⟩
    · exact .inl he
    · exact .inr (.inl ⟨q, he⟩)
    · exact .inr (.inr ⟨rest, he⟩)
  | command w q hb hq hc => exact .inr (.inr (.inl ⟨hb, w, q, hq, hc⟩))
  | stored r v q hb _ hq ht => exact .inr (.inr (.inr ⟨hb, r, v, q, hq, ht⟩))
  | reset q hq _ => exact absurd hq (hr q)
  | idle q _ _ ht => exact .inl (ht ▸ ⟨rfl, rfl, rfl, rfl, rfl, rfl, rfl, rfl⟩)
  | dropped r v q _ _ ht => exact .inl (ht ▸ ⟨rfl, rfl, rfl, rfl, rfl, rfl, rfl, rfl⟩)
  | read r q _ ht => exact .inl (ht ▸ ⟨rfl, rfl, rfl, rfl, rfl, rfl, rfl, rfl⟩)
  | outPort b q _ ht => exact .inl (ht ▸ ⟨rfl, rfl, rfl, rfl, rfl, rfl, rfl, rfl⟩)

/-- The operands stay, unless the host writes a register of an idle block. -/
theorem step_operands_cases {s t : State} (h : step s = .next t)
    (hr : ∀ rest : List Event, s.events ≠ .reset :: rest) :
    (t.seed = s.seed ∧ t.rounds = s.rounds ∧ t.capacity = s.capacity) ∨
    (s.status.busy = false ∧ ∃ r v q, s.events = .hostWrite (regOffset r) 4 v :: q ∧
      t = storeReg r v (setEvents q s)) := by
  rcases step_block_cases h hr with hq | ⟨hb, -, q, hc⟩ | ⟨hb, w, q, -, hc⟩ | hw
  · exact .inl ⟨hq.seed, hq.rounds, hq.capacity⟩
  · have ho := coreStep_sameOperands (s := setEvents q s) hb hc
    exact .inl ⟨ho.seed, ho.rounds, ho.capacity⟩
  · have ho := commandWrite_sameOperands (s := setEvents q s) hb hc
    exact .inl ⟨ho.seed, ho.rounds, ho.capacity⟩
  · exact .inr hw

/-- A register whose value is `v` after a write to `r'` and as before after a write to another register: when it
changed, the write was to `r'`. -/
theorem hostWrite_of_changed {s : State} {x y v : Word} {r r' : Reg} {q : List Event}
    (hq : s.events = .hostWrite (regOffset r) 4 v :: q) (hx : x = if r = r' then v else y)
    (hne : x ≠ y) : ∃ rest, s.events = .hostWrite (regOffset r') 4 x :: rest := by
  split at hx
  · next hreg => exact ⟨q, hx ▸ hreg ▸ hq⟩
  · exact absurd hx hne

/-- Settles O38, by `step_operands_cases`, and by what a plain write does to each of the four registers. -/
theorem operandRegistersPersist : Obligations.OperandRegistersPersist := by
  intro s t h hr
  rcases step_operands_cases h hr with ⟨hseed, hrounds, hcap⟩ | ⟨hb, r, v, q, hq, rfl⟩
  · exact ⟨fun hne => absurd (congrArg OtpPair.lo hseed) hne, fun hne => absurd (congrArg OtpPair.hi hseed) hne,
      fun hne => absurd hrounds hne, fun hne => absurd hcap hne⟩
  · exact ⟨fun hne => ⟨hb, hostWrite_of_changed (r' := .seedLo) hq (storeReg_seed_lo r v _) hne⟩,
      fun hne => ⟨hb, hostWrite_of_changed (r' := .seedHi) hq (storeReg_seed_hi r v _) hne⟩,
      fun hne => ⟨hb, hostWrite_of_changed (r' := .rounds) hq (storeReg_rounds r v _) hne⟩,
      fun hne => ⟨hb, hostWrite_of_changed (r' := .capacity) hq (storeReg_capacity r v _) hne⟩⟩

/-! ### IDX (`10_state.md` R30) -/

theorem RunningInv.idx_le_rounds {s : State} (h : RunningInv s) : s.idx ≤ s.rounds := by
  have hzero : s.idx = 0#32 → s.idx ≤ s.rounds := fun h0 => h0 ▸ BitVec.le_def.mpr (Nat.zero_le _)
  rcases h with ⟨-, h0⟩ | ⟨-, h0⟩ | ⟨-, h0⟩ | ⟨-, -, hle, -⟩ | ⟨-, -, -, hle, -⟩
  · exact hzero h0
  · exact hzero h0
  · exact hzero h0
  · exact hle
  · exact hle

/-- A turn of the core in a loop with a round left, which its port does not hold back, counts IDX. -/
theorem coreStep_loop_idx {s t : State} (hb : s.status.busy = true)
    (hop : s.opl = 4#4 ∨ (s.opl = 5#4 ∧ s.outStalled = false)) (hlt : s.idx < s.rounds)
    (h : coreStep s = .next t) : t.idx = s.idx + 1#32 := by
  rw [BitVec.lt_def] at hlt
  rcases hop with ho | ⟨ho, hport⟩
  · rw [coreStep_of_opl (i := .iterate) ho, exec_iterate_busy hb, stepIterate_round hlt] at h
    cases h
    rfl
  · rw [coreStep_of_opl (i := .chain) ho, exec_chain_busy hb] at h
    rcases stepChain_cases s with ⟨hge, -⟩ | ⟨-, hp, -⟩ | ⟨-, -, -, he⟩ | ⟨-, -, -, he⟩
    · omega
    · simp [hport] at hp
    · cases he.symm.trans h
      exact elementStep_idx s
    · cases he.symm.trans h

/-- Settles O40: what changes IDX by `step_block_cases`, the loop's own steps by `coreStep_loop_idx`, and the bound
from the loop invariants. -/
theorem idxCountsTheStepsOfTheLoop : Obligations.IdxCountsTheStepsOfTheLoop := by
  refine ⟨fun s t h hr => ?_, fun s t hb hop hlt hq h => ?_, fun s hi hb => (hi.running hb).idx_le_rounds⟩
  · rcases step_block_cases h hr with hsame | ⟨hb, -, q, hc⟩ | ⟨hb, w, q, hq, hc⟩ | ⟨hb, r, v, q, -, rfl⟩
    · refine ⟨fun hb hb' => ?_, fun hne => absurd hsame.idx hne⟩
      simp [hsame.busy, hb] at hb'
    · refine ⟨fun hb' => by simp [hb] at hb', fun hne => ?_⟩
      rcases coreStep_idx (s := setEvents q s) hb hc with heq | ⟨hop, hlt, hidx⟩
      · exact absurd heq hne
      · exact .inr ⟨hb, hop, hlt, hidx ▸ idx_succ_toNat (BitVec.lt_def.mp hlt)⟩
    · rcases commandWrite_idx (s := setEvents q s) hb hc with ⟨heq, hidle⟩ | ⟨hzero, hbusy⟩
      · exact ⟨fun _ hb' => by simp [hidle] at hb', fun hne => absurd heq hne⟩
      · exact ⟨fun _ _ => hzero, fun _ => .inl ⟨hb, hbusy, w, q, hq⟩⟩
    · refine ⟨fun _ hb' => ?_, fun hne => absurd (storeReg_idx _ r v) hne⟩
      simp [hb] at hb'
  · obtain ⟨q, hstep⟩ := step_eq_coreStep hb hq
    exact coreStep_loop_idx (s := setEvents q s) hb hop hlt (hstep.symm.trans h)

/-! ### CUR, DIG and the OUT space -/

/-- Settles O41, by what each kind of step does to CUR and to DIG. -/
theorem resultRegistersChangeOnlyByTheirCommands : Obligations.ResultRegistersChangeOnlyByTheirCommands := by
  intro s t h hr
  rcases step_block_cases h hr with hsame | ⟨hb, -, q, hc⟩ | ⟨hb, w, q, hq, hc⟩ | ⟨hb, r, v, q, hq, rfl⟩
  · exact ⟨fun hne => absurd hsame.cur hne, fun hne => absurd hsame.dig hne⟩
  · exact ⟨fun hne => .inr ⟨hb, (coreStep_cur (s := setEvents q s) hb hc).resolve_left hne⟩,
      fun hne => .inr ⟨hb, (coreStep_dig (s := setEvents q s) hb hc).resolve_left hne⟩⟩
  · refine ⟨fun hne => .inl ?_, fun hne => absurd (commandWrite_dig (s := setEvents q s) hb hc) hne⟩
    obtain ⟨hseed, hbusy, rfl | rfl⟩ := (commandWrite_cur (s := setEvents q s) hb hc).resolve_left hne
    · exact ⟨hb, hbusy, hseed, q, .inl hq⟩
    · exact ⟨hb, hbusy, hseed, q, .inr hq⟩
  · exact ⟨fun hne => absurd (storeReg_cur _ r v) hne,
      fun hne => .inl ⟨hb, regOffset r, v, q, (storeReg_dig r v _).resolve_left hne, hq⟩⟩

/-- Only an element step of CHAIN changes the OUT space; Reset leaves it alone too. -/
theorem step_mem_cases {s t : State} (h : step s = .next t) :
    t.mem = s.mem ∨ (s.status.busy = true ∧ s.opl = 5#4 ∧ s.idx < s.rounds ∧
      t.mem = outWrite s.mem s.idx (pack s.cur)) := by
  by_cases hr : ∃ rest : List Event, s.events = .reset :: rest
  · obtain ⟨rest, he⟩ := hr
    cases (step_reset he).symm.trans h
    exact .inl rfl
  · rcases step_block_cases h (not_exists.mp hr) with
      hsame | ⟨hb, -, q, hc⟩ | ⟨hb, w, q, -, hc⟩ | ⟨-, r, v, q, -, rfl⟩
    · exact .inl hsame.mem
    · exact (coreStep_mem (s := setEvents q s) hb hc).imp_right (⟨hb, ·⟩)
    · exact .inl (commandWrite_mem (s := setEvents q s) hb hc)
    · exact .inl (storeReg_mem _ r v)

/-- Settles O44: the changed byte is one of the element that `step_mem_cases` names, and the loop invariant of
CHAIN has ROUNDS within CAPACITY. -/
theorem outWritesStayBelowCapacity : Obligations.OutWritesStayBelowCapacity := by
  intro s t addr hi h hne
  rcases step_mem_cases h with heq | ⟨hb, ho, hlt, hmem⟩
  · exact absurd (congrArg (readByte · addr) heq) hne
  · obtain ⟨-, hcap, -⟩ := (hi.running hb).chainInv ho
    rw [hmem, readByte_outWrite, elementAddr] at hne
    split at hne
    · next hin => exact ⟨hb, ho, hin.1, hin.2, hlt, hcap⟩
    · exact absurd rfl hne

/-! ### STATUS (`10_state.md` R28) -/

/-- Settles O43, by `coreStep_completes`: no other step but Reset ends BUSY. -/
theorem onlyCompletionOrResetEndsBusy : Obligations.OnlyCompletionOrResetEndsBusy := by
  intro s t hb h ht
  by_cases hr : ∃ rest : List Event, s.events = .reset :: rest
  · exact .inl hr
  · rcases step_block_cases h (not_exists.mp hr) with hsame | ⟨-, hturn, q, hc⟩ | ⟨hidle, -⟩ | ⟨hidle, -⟩
    · simp [hsame.busy, hb] at ht
    · obtain ⟨hdone, hcmd⟩ := coreStep_completes (s := setEvents q s) hb hc ht
      exact .inr ⟨hdone, hcmd, hturn⟩
    · simp [hb] at hidle
    · simp [hb] at hidle

/-- What a step that is not Reset can do to STATUS. -/
theorem step_status_cases {s t : State} (h : step s = .next t)
    (hr : ∀ rest : List Event, s.events ≠ .reset :: rest) :
    t.status = s.status ∨
    (s.status.busy = true ∧ (t.status = statusCompleted s.status ∨ t.status = statusWriteLost s.status)) ∨
    (s.status.busy = false ∧
      (t.status = statusAccepted s.status ∨ ∃ f, t.status = statusRejected f s.status)) := by
  cases step_cases h with
  | core q hb _ hc =>
    rcases (coreStep_opl_status (s := setEvents q s) hb hc).2 with hst | hst
    · exact .inl hst
    · exact .inr (.inl ⟨hb, .inl hst⟩)
  | dropped r v q hb _ ht => exact .inr (.inl ⟨hb, .inr (congrArg State.status ht)⟩)
  | command w q hb _ hc =>
    rcases commandWrite_rejects_or_accepts (s := setEvents q s) hb hc with ⟨f, rfl⟩ | ⟨-, hst⟩
    · exact .inr (.inr ⟨hb, .inr ⟨f, rfl⟩⟩)
    · exact .inr (.inr ⟨hb, .inl hst⟩)
  | reset q hq _ => exact absurd hq (hr q)
  | idle q _ _ ht => exact .inl (by simp [ht])
  | stored r v q _ _ _ ht => exact .inl (by simp [ht])
  | read r q _ ht => exact .inl (by simp [ht])
  | outPort b q _ ht => exact .inl (by simp [ht])

theorem oneOfBusyDoneErr_accepted (st : Status) : OneOfBusyDoneErr (statusAccepted st) :=
  .inl ⟨rfl, rfl, rfl⟩

theorem oneOfBusyDoneErr_rejected {st : Status} (f : CmdFault) (hb : st.busy = false) :
    OneOfBusyDoneErr (statusRejected f st) :=
  .inr (.inr ⟨hb, rfl, rfl⟩)

theorem oneOfBusyDoneErr_completed {st : Status} (h : OneOfBusyDoneErr st) (hb : st.busy = true) :
    OneOfBusyDoneErr (statusCompleted st) := by
  rcases h with ⟨-, -, herr⟩ | ⟨hidle, -⟩ | ⟨hidle, -⟩
  · exact .inr (.inl ⟨rfl, rfl, herr⟩)
  · simp [hb] at hidle
  · simp [hb] at hidle

theorem statusInv_step {s t : State} (hi : StatusInv s.status) (h : step s = .next t) : StatusInv t.status := by
  by_cases hr : ∃ rest : List Event, s.events = .reset :: rest
  · obtain ⟨rest, he⟩ := hr
    cases (step_reset he).symm.trans h
    exact statusInv_reset
  · rcases step_status_cases h (not_exists.mp hr) with hst | ⟨hb, hst | hst⟩ | ⟨hb, hst | ⟨f, hst⟩⟩
    · exact hst ▸ hi
    · exact hst ▸ statusInv_completed hi hb
    · exact hst ▸ statusInv_writeLost hi
    · exact hst ▸ statusInv_accepted _
    · exact hst ▸ statusInv_rejected f hb

theorem oneOfBusyDoneErr_step {s t : State} (hi : OneOfBusyDoneErr s.status) (h : step s = .next t)
    (hr : ∀ rest : List Event, s.events ≠ .reset :: rest) : OneOfBusyDoneErr t.status := by
  rcases step_status_cases h hr with hst | ⟨hb, hst | hst⟩ | ⟨hb, hst | ⟨f, hst⟩⟩
  · exact hst ▸ hi
  · exact hst ▸ oneOfBusyDoneErr_completed hi hb
  · exact hst ▸ hi
  · exact hst ▸ oneOfBusyDoneErr_accepted _
  · exact hst ▸ oneOfBusyDoneErr_rejected f hb

/-- Settles O37: the invariants and the one flag by what a step can do to STATUS; before the first command write
STATUS stays (`step_status_of_idle`), and that write accepts or rejects. -/
theorem statusInvariantsArePreserved : Obligations.StatusInvariantsArePreserved := by
  refine ⟨statusInv_reset, rfl, rfl, rfl, fun s t => statusInv_step, fun s t hb hd he h hcmd => ?_,
    fun s t w rest hb hq h => ?_, fun s t => oneOfBusyDoneErr_step⟩
  · by_cases hr : ∃ rest : List Event, s.events = .reset :: rest
    · obtain ⟨rest, hq⟩ := hr
      cases (step_reset hq).symm.trans h
      exact ⟨rfl, rfl, rfl⟩
    · rw [step_status_of_idle hb h hcmd (not_exists.mp hr)]
      exact ⟨hb, hd, he⟩
  · rw [step_commandWrite hb hq] at h
    rcases commandWrite_rejects_or_accepts (s := setEvents rest s) hb h with ⟨f, rfl⟩ | ⟨-, hst⟩
    · exact oneOfBusyDoneErr_rejected f hb
    · exact hst ▸ oneOfBusyDoneErr_accepted _

end Sys2Proof.Machine
end

section
/-! PROOFS. Where a command or a whole step stops, the frame of the OUT space, and the stalled output port. -/

namespace Sys2Proof.Machine

/-! ### Where a command stops (`60_exceptions.md` R222) -/

section
variable {s : State} {i : Instr}

/-- Acceptance and rejection are next states. -/
theorem exec_answers_of_idle (i : Instr) (hb : s.status.busy = false) : ∃ t, exec i s = .next t := by
  cases i with
  | compress => exact ⟨_, exec_compress_idle hb⟩
  | fold => exact ⟨_, exec_fold_idle hb⟩
  | round => exact ⟨_, exec_round_idle hb⟩
  | iterate => exact ⟨_, exec_iterate_idle hb⟩
  | chain => exact ⟨_, exec_chain_idle hb⟩

/-- Only CHAIN could stop, and its loop invariant and the launch premise keep IDX inside the buffer. -/
theorem exec_answers_of_busy (hi : Inv s) (hbuf : BufferPremise s) (hb : s.status.busy = true)
    (ho : s.opl = i.opcode) : ∃ t, exec i s = .next t := by
  cases i with
  | compress => exact ⟨_, exec_compress_busy hb⟩
  | fold => exact ⟨_, exec_fold_busy hb⟩
  | round => exact ⟨_, exec_round_busy hb⟩
  | iterate => exact ⟨_, exec_iterate_busy hb⟩
  | chain =>
    obtain ⟨t, ht, -⟩ := chainInv_stepChain ((hi.running hb).chainInv ho) hbuf
    exact ⟨t, (exec_chain_busy hb).trans ht⟩

theorem RunningInv.exists_opcode (h : RunningInv s) : ∃ i : Instr, s.opl = i.opcode := by
  rcases h with ⟨ho, -⟩ | ⟨ho, -⟩ | ⟨ho, -⟩ | ⟨ho, -⟩ | ⟨ho, -⟩
  · exact ⟨.compress, ho⟩
  · exact ⟨.fold, ho⟩
  · exact ⟨.round, ho⟩
  · exact ⟨.iterate, ho⟩
  · exact ⟨.chain, ho⟩

theorem coreStep_answers (hi : Inv s) (hbuf : BufferPremise s) (hb : s.status.busy = true) :
    ∃ t, coreStep s = .next t := by
  obtain ⟨i, ho⟩ := (hi.running hb).exists_opcode
  rw [coreStep_of_opl ho]
  exact exec_answers_of_busy hi hbuf hb ho

end

/-- Settles O12: outside the buffer by `stepChain_outside`, and the two ways in which a command answers. -/
theorem chainStopsOnlyOutsideThePlatformBuffer : Obligations.ChainStopsOnlyOutsideThePlatformBuffer := by
  refine ⟨fun s hb hlt hp ho => ?_, fun i s hi hbuf ho hb => ?_, fun i s hb => exec_answers_of_idle i hb⟩
  · rw [exec_chain_busy hb]
    exact stepChain_outside (BitVec.lt_def.mp hlt) hp ho
  · exact exec_answers_of_busy hi hbuf hb ((ofOpcode_eq_some_iff _ _).mp ho)

/-! ### Where a step stops (`20_memory.md` R70) -/

/-- An event whose register access has a meaning is answered, in the invariant and the launch premise. -/
theorem runEvent_answers {e : Event} {s : State} (q : List Event) (hi : Inv s) (hbuf : BufferPremise s)
    (he : e.wf = true) : ∃ t, runEvent e q s = .next t := by
  cases e with
  | hostWrite off width v =>
    obtain ⟨r, rfl, rfl⟩ := exists_reg_of_accessWf he
    obtain ⟨t, ht⟩ := writeReg_answers r v (setEvents q s)
    exact ⟨t, (runEvent_write r v q s).trans ht⟩
  | hostRead off width =>
    obtain ⟨r, rfl, rfl⟩ := exists_reg_of_accessWf he
    exact ⟨_, runEvent_read r q s⟩
  | wait =>
    rw [runEvent]
    split_ifs with hb
    · exact coreStep_answers hi hbuf hb
    · exact ⟨_, rfl⟩
  | core =>
    rw [runEvent, coreTurn]
    split_ifs with hb
    · exact coreStep_answers (hi.setEvents q) hbuf hb
    · exact ⟨_, rfl⟩
  | reset => exact ⟨_, rfl⟩
  | outPort b => exact ⟨_, rfl⟩

/-- An event that is not well formed is a register access, and refused. -/
theorem runEvent_refused {e : Event} (he : ¬ e.wf = true) :
    ∃ off width, ¬ accessWf off width = true ∧
      ((∃ v, e = .hostWrite off width v) ∨ e = .hostRead off width) ∧
      ∀ q s, runEvent e q s = .refused (.regAccess off width) := by
  cases e with
  | hostWrite off width v => exact ⟨off, width, he, .inl ⟨v, rfl⟩, fun q s => runEvent_write_refused q s v he⟩
  | hostRead off width => exact ⟨off, width, he, .inr rfl, fun q s => runEvent_read_refused q s he⟩
  | wait | core | reset | outPort _ => exact absurd rfl he

/-- Settles O56: with an empty queue the core's turn answers, a well-formed event is answered, and any other is
refused. -/
theorem stepStopsOnlyAtAnUndefinedAccess : Obligations.StepStopsOnlyAtAnUndefinedAccess := by
  intro s hi hbuf
  cases hq : s.events with
  | nil =>
    cases hb : s.status.busy with
    | true => exact .inl (step_nil_busy hb hq ▸ coreStep_answers hi hbuf hb)
    | false => exact .inl ⟨s, step_nil_idle hb hq⟩
  | cons e q =>
    have hstep : step s = runEvent e q s := by rw [step, hq]
    rw [hstep]
    by_cases he : e.wf = true
    · exact .inl (runEvent_answers q hi hbuf he)
    · obtain ⟨off, width, hwf, hevent, hrefused⟩ := runEvent_refused he
      rw [accessWf_iff] at hwf
      refine .inr ⟨off, width, q, hwf, ?_, hrefused q s⟩
      rcases hevent with ⟨v, rfl⟩ | rfl
      · exact .inl ⟨v, rfl⟩
      · exact .inr rfl

/-! ### The frame of the OUT space (`10_state.md` R38) -/

section
variable {s t : State}

@[simp] theorem acceptIterate_mem (s : State) : (acceptIterate s).mem = s.mem := by
  rcases acceptIterate_cases s with ⟨-, he⟩ | ⟨-, he⟩ <;> rw [he] <;> rfl

@[simp] theorem acceptChain_mem (s : State) : (acceptChain s).mem = s.mem := by
  rcases acceptChain_cases s with ⟨-, he⟩ | ⟨-, -, he⟩ | ⟨-, -, he⟩ <;> rw [he] <;> rfl

@[simp] theorem stepIterate_mem (s : State) : (stepIterate s).mem = s.mem := by
  rcases stepIterate_cases s with ⟨-, he⟩ | ⟨-, he⟩ <;> rw [he] <;> rfl

/-- A command that is not CHAIN leaves OUT alone, and so does the acceptance or rejection of CHAIN. -/
theorem exec_mem {i : Instr} (h : exec i s = .next t) (hi : i ≠ .chain ∨ s.status.busy = false) :
    t.mem = s.mem := by
  cases hb : s.status.busy with
  | true =>
    cases i with
    | compress => cases (exec_compress_busy hb).symm.trans h; rfl
    | fold => cases (exec_fold_busy hb).symm.trans h; rfl
    | round => cases (exec_round_busy hb).symm.trans h; rfl
    | iterate => cases (exec_iterate_busy hb).symm.trans h; exact stepIterate_mem s
    | chain => simp [hb] at hi
  | false =>
    cases i with
    | compress => cases (exec_compress_idle hb).symm.trans h; rfl
    | fold => cases (exec_fold_idle hb).symm.trans h; rfl
    | round => cases (exec_round_idle hb).symm.trans h; rfl
    | iterate => cases (exec_iterate_idle hb).symm.trans h; exact acceptIterate_mem s
    | chain => cases (exec_chain_idle hb).symm.trans h; exact acceptChain_mem s

/-- The completing step and a stalled one leave OUT alone. -/
theorem stepChain_mem (h : stepChain s = .next t) (hq : s.rounds ≤ s.idx ∨ s.outStalled = true) :
    t.mem = s.mem := by
  rcases stepChain_cases s with ⟨-, he⟩ | ⟨-, -, he⟩ | ⟨hlt, hp, -, he⟩ | ⟨-, -, -, he⟩
  · cases he.symm.trans h; rfl
  · cases he.symm.trans h; rfl
  · rcases hq with hge | hp'
    · exact absurd (BitVec.le_def.mp hge) (Nat.not_le.mpr hlt)
    · simp [hp] at hp'
  · cases he.symm.trans h

theorem stepChain_element_mem (h : stepChain s = .next t) (hlt : s.idx < s.rounds)
    (hp : s.outStalled = false) : t.mem = outWrite s.mem s.idx (pack s.cur) := by
  rcases stepChain_cases s with ⟨hge, -⟩ | ⟨-, hp', -⟩ | ⟨-, -, -, he⟩ | ⟨-, -, -, he⟩
  · exact absurd (BitVec.lt_def.mp hlt) (Nat.not_lt.mpr hge)
  · simp [hp] at hp'
  · cases he.symm.trans h
    exact elementStep_mem s
  · cases he.symm.trans h

end

/-- Settles O13: every transition but the element step keeps the whole OUT space, and the element step is an
`outWrite` of CUR at IDX. -/
theorem onlyAnElementStepOfChainWritesOut : Obligations.OnlyAnElementStepOfChainWritesOut := by
  refine ⟨fun i s t hi h addr => ?_, fun s t h hq addr => ?_, fun s t h hb hlt hp => ?_⟩
  · have hne : i ≠ .chain := by rcases hi with rfl | rfl | rfl | rfl <;> decide
    rw [exec_mem h (.inl hne)]
  · cases hb : s.status.busy with
    | false => rw [exec_mem h (.inr hb)]
    | true =>
      rw [exec_chain_busy hb] at h
      rw [stepChain_mem h (hq.resolve_left (by simp [hb]))]
  · rw [exec_chain_busy hb] at h
    rw [stepChain_element_mem h hlt hp]
    refine ⟨readElement_outWrite_same _ _ _, fun addr haddr => ?_⟩
    rw [readByte_outWrite, if_neg (by omega)]

/-! ### The stalled output port (`70_reset_and_hazards.md` R247, U9) -/

/-- A state that steps to itself stays. -/
theorem run_of_step_self {s : State} (h : step s = .next s) (k : Nat) : core.run k s = .next s := by
  induction k with
  | zero => rfl
  | succ k ih => rw [run_succ k h, ih]

/-- A turn of the core of a stalled CHAIN with an element to write changes nothing. -/
theorem coreStep_stalled {s : State} (hb : s.status.busy = true) (ho : s.opl = 5#4) (hlt : s.idx < s.rounds)
    (hp : s.outStalled = true) : coreStep s = .next s :=
  calc coreStep s
    _ = exec .chain s := coreStep_of_opl ho
    _ = stepChain s := exec_chain_busy hb
    _ = .next s := stepChain_stalled (BitVec.lt_def.mp hlt) hp

/-- Only the platform's event changes whether the port is stalled. -/
theorem step_outStalled_cases {s t : State} (h : step s = .next t) :
    t.outStalled = s.outStalled ∨ ∃ rest, s.events = .outPort t.outStalled :: rest := by
  cases step_cases h with
  | core q hb _ hc => exact .inl (coreStep_sameOperands (s := setEvents q s) hb hc).outStalled
  | command w q hb _ hc => exact .inl (commandWrite_sameOperands (s := setEvents q s) hb hc).outStalled
  | outPort b q hq ht => exact .inr ⟨q, ht ▸ hq⟩
  | idle q _ _ ht => exact .inl (by simp [ht])
  | dropped r v q _ _ ht => exact .inl (by simp [ht])
  | stored r v q _ _ _ ht => exact .inl (by simp [ht])
  | read r q _ ht => exact .inl (by simp [ht])
  | reset q _ ht => exact .inl (by simp [ht])

section
variable (b : Bool) (s : State)

theorem acceptIterate_setOutStalled :
    acceptIterate (setOutStalled b s) = setOutStalled b (acceptIterate s) := by
  rcases acceptIterate_cases s with ⟨hgt, he⟩ | ⟨hle, he⟩
  · rw [he, acceptIterate_rejects (s := setOutStalled b s) hgt]
    rfl
  · rw [he, acceptIterate_accepts (s := setOutStalled b s) hle]
    rfl

theorem acceptChain_setOutStalled :
    acceptChain (setOutStalled b s) = setOutStalled b (acceptChain s) := by
  rcases acceptChain_cases s with ⟨hgt, he⟩ | ⟨hle, hcap, he⟩ | ⟨hle, hcap, he⟩
  · rw [he, acceptChain_rejects_roundsRange (s := setOutStalled b s) hgt]
    rfl
  · rw [he, acceptChain_rejects_capacity (s := setOutStalled b s) hle hcap]
    rfl
  · rw [he, acceptChain_accepts (s := setOutStalled b s) hle hcap]
    rfl

theorem stepIterate_setOutStalled :
    stepIterate (setOutStalled b s) = setOutStalled b (stepIterate s) := by
  rcases stepIterate_cases s with ⟨hlt, he⟩ | ⟨hge, he⟩
  · rw [he, stepIterate_round (s := setOutStalled b s) hlt]
    rfl
  · rw [he, stepIterate_done (s := setOutStalled b s) hge]
    rfl

end

/-- No transition of a command but the element step of CHAIN depends on the port. -/
theorem exec_setOutStalled {i : Instr} {s t : State} (b : Bool)
    (hi : i ≠ .chain ∨ s.status.busy = false ∨ s.rounds ≤ s.idx) (h : exec i s = .next t) :
    exec i (setOutStalled b s) = .next (setOutStalled b t) := by
  cases hb : s.status.busy with
  | true =>
    have hb' : (setOutStalled b s).status.busy = true := hb
    cases i with
    | compress => cases (exec_compress_busy hb).symm.trans h; exact exec_compress_busy hb'
    | fold => cases (exec_fold_busy hb).symm.trans h; exact exec_fold_busy hb'
    | round => cases (exec_round_busy hb).symm.trans h; exact exec_round_busy hb'
    | iterate =>
      cases (exec_iterate_busy hb).symm.trans h
      rw [exec_iterate_busy hb', stepIterate_setOutStalled]
    | chain =>
      have hge : s.rounds.toNat ≤ s.idx.toNat := by simpa [hb, BitVec.le_def] using hi
      rw [exec_chain_busy hb, stepChain_done hge] at h
      cases h
      rw [exec_chain_busy hb', stepChain_done (s := setOutStalled b s) hge]
      rfl
  | false =>
    have hb' : (setOutStalled b s).status.busy = false := hb
    cases i with
    | compress => cases (exec_compress_idle hb).symm.trans h; exact exec_compress_idle hb'
    | fold => cases (exec_fold_idle hb).symm.trans h; exact exec_fold_idle hb'
    | round => cases (exec_round_idle hb).symm.trans h; exact exec_round_idle hb'
    | iterate =>
      cases (exec_iterate_idle hb).symm.trans h
      rw [exec_iterate_idle hb', acceptIterate_setOutStalled]
    | chain =>
      cases (exec_chain_idle hb).symm.trans h
      rw [exec_chain_idle hb', acceptChain_setOutStalled]

/-- Settles O58: the hang by `coreStep_stalled`, what changes the port by `step_outStalled_cases`, and what does not
depend on it by `exec_setOutStalled`. -/
theorem stalledOutputPortHangsChain : Obligations.StalledOutputPortHangsChain := by
  refine ⟨fun s hb ho hlt hp => ⟨?_, fun hq => ?_, fun rest => ?_, fun rest => ?_, ?_⟩, fun s b rest => ?_,
    fun s t h => (step_outStalled_cases h).resolve_left, fun i s t b hi h => exec_setOutStalled b hi h⟩
  · exact (coreStep_of_opl ho).symm.trans (coreStep_stalled hb ho hlt hp)
  · refine run_of_step_self ?_
    rcases hq with he | ⟨rest, he⟩
    · exact (step_nil_busy hb he).trans (coreStep_stalled hb ho hlt hp)
    · exact (step_wait_busy hb he).trans (coreStep_stalled hb ho hlt hp)
  · exact (step_core_busy (s := { s with events := .core :: rest }) hb rfl).trans
      (coreStep_stalled (s := setEvents rest s) hb ho hlt hp)
  · exact step_hostRead_specified (r := .status) rest (readIsDrawn_of_specified rfl)
  · obtain ⟨hbusy, -⟩ := statusWord_flags s.status
    exact hbusy.trans hb
  · exact step_outPort (s := { s with events := .outPort b :: rest }) rfl

end Sys2Proof.Machine
end

section
/-! PROOFS. The OUT space and the pure functions: the bytes of an element, the bit functions, the block words, and
`compress` as the reference MD5. -/

namespace Sys2Proof.Machine

/-! ### The bytes of an element (`20_memory.md` R66, R69) -/

theorem readByte_outWrite_element (m : Memory) (i : Word) (v : BitVec 64) {k : Nat} (hk : k < 8) :
    readByte (outWrite m i v) (8 * i.toNat + k) = some (elementByte v k) := by
  rw [readByte_outWrite, elementAddr, if_pos (by omega), Nat.add_sub_cancel_left]

/-- The bytes of a packed state, in order, are its message bytes (`20_memory.md` R68, R69). -/
theorem elementBytes_pack (x : OtpPair) : (List.range 8).map (elementByte (pack x)) = messageBytes x := by
  have hlo : ∀ k, k < 4 → elementByte (pack x) k = x.lo.extractLsb' (8 * k) 8 := fun k hk =>
    BitVec.extractLsb'_append_eq_of_add_le (by omega)
  have hhi : ∀ k, 4 ≤ k → elementByte (pack x) k = x.hi.extractLsb' (8 * k - 32) 8 := fun k hk =>
    BitVec.extractLsb'_append_eq_of_le (by omega)
  simp [List.range_succ, messageBytes, wordBytes, hlo, hhi]

/-- Settles O47: the element and its bytes by `readByte_outWrite`, the message bytes by `elementBytes_pack`. -/
theorem outWriteReplacesOneElement : Obligations.OutWriteReplacesOneElement := by
  refine ⟨fun m i v => ⟨readElement_outWrite_same m i v, fun j hj => readElement_outWrite_other m v hj,
    fun k hk => readByte_outWrite_element m i v hk, fun addr haddr => ?_, outWrite_keeps_wf m i v⟩,
    fun m i x => ?_⟩
  · rw [readByte_outWrite, elementAddr, if_neg (by omega)]
  · rw [← elementBytes_pack, List.map_map]
    exact List.map_congr_left fun k hk => readByte_outWrite_element m i _ (List.mem_range.mp hk)

/-! ### The bit functions (`40_md5_compressor.md` R123) -/

section
variable (x y z : Word) {i : Nat}

theorem md5F_getLsbD (hi : i < 32) :
    (md5F x y z).getLsbD i = (x.getLsbD i && y.getLsbD i || !x.getLsbD i && z.getLsbD i) := by
  simp only [md5F, BitVec.getLsbD_or, BitVec.getLsbD_and, BitVec.getLsbD_not, hi, decide_true, Bool.true_and]

theorem md5G_getLsbD (hi : i < 32) :
    (md5G x y z).getLsbD i = (x.getLsbD i && z.getLsbD i || y.getLsbD i && !z.getLsbD i) := by
  simp only [md5G, BitVec.getLsbD_or, BitVec.getLsbD_and, BitVec.getLsbD_not, hi, decide_true, Bool.true_and]

theorem md5H_getLsbD : (md5H x y z).getLsbD i = ((x.getLsbD i ^^ y.getLsbD i) ^^ z.getLsbD i) := by
  simp only [md5H, BitVec.getLsbD_xor]

theorem md5I_getLsbD (hi : i < 32) :
    (md5I x y z).getLsbD i = (y.getLsbD i ^^ (x.getLsbD i || !(z.getLsbD i))) := by
  simp only [md5I, BitVec.getLsbD_xor, BitVec.getLsbD_or, BitVec.getLsbD_not, hi, decide_true, Bool.true_and]

end

/-- Settles O50: each function at one bit; F and G by the value of the bit that selects. -/
theorem bitwiseFunctionsBitByBit : Obligations.BitwiseFunctionsBitByBit := by
  refine fun x y z i hi => ⟨?_, ?_, md5H_getLsbD x y z, md5I_getLsbD x y z hi⟩
  · rw [md5F_getLsbD x y z hi]
    cases x.getLsbD i <;> simp
  · rw [md5G_getLsbD x y z hi]
    cases z.getLsbD i <;> simp

/-! ### The block words (`40_md5_compressor.md` R120, R131, R135) -/

theorem block_getD (x : OtpPair) {j : Nat} (hj : j < 16) :
    (block x).getD j 0#32 =
      if j = 0 then x.lo else if j = 1 then x.hi else if j = 2 then 0x00000080#32
      else if j = 14 then 0x00000040#32 else 0#32 := by
  interval_cases j <;> rfl

theorem blockIndex_lt {i : Nat} (hi : i < 64) : blockIndex i < 16 := by
  have h : ∀ i < 64, blockIndex i < 16 := by decide
  exact h i hi

/-- The steps at which the four words other than 0 enter. -/
theorem blockIndex_eq_iff : ∀ i < 64,
    (blockIndex i = 0 ↔ i ∈ [0, 19, 41, 48]) ∧ (blockIndex i = 1 ↔ i ∈ [1, 16, 36, 55]) ∧
    (blockIndex i = 2 ↔ i ∈ [2, 29, 47, 62]) ∧ (blockIndex i = 14 ↔ i ∈ [14, 25, 35, 50]) := by
  decide

/-- Settles O52: the word at each index of the block, and the steps that use that index. -/
theorem blockWordsEnterAtTheirSteps : Obligations.BlockWordsEnterAtTheirSteps := by
  intro x i hi
  obtain ⟨h0, h1, h2, h14⟩ := blockIndex_eq_iff i hi
  simp only [block_getD x (blockIndex_lt hi), h0, h1, h2, h14]

/-! ### The step table (`40_md5_compressor.md` R132) -/

/-- The function of a step, by its name in R132. -/
def stepFunctionName (i : Nat) : StepFunctionName :=
  match i / 16 with
  | 0 => .f
  | 1 => .g
  | 2 => .h
  | _ => .i

theorem referenceFunction_stepFunctionName (i : Nat) (x y z : Word) :
    referenceFunction (stepFunctionName i) x y z = stepFunction i x y z := by
  unfold stepFunctionName stepFunction
  generalize i / 16 = group
  match group with
  | 0 => exact referenceFunction_f x y z
  | 1 => exact referenceFunction_g x y z
  | 2 => exact referenceFunction_h x y z
  | _ + 3 => exact referenceFunction_i x y z

/-- The row that the formulas give step `i`. -/
def stepRow (i : Nat) : StepRow where
  fn := stepFunctionName i
  index := blockIndex i
  shift := shiftAmount i
  const := additiveConstant i

theorem stepTable_eq_map_stepRow : stepTable = (List.range 64).map stepRow := by decide

theorem getElem?_stepTable {i : Nat} {r : StepRow} (h : stepTable[i]? = some r) : r = stepRow i := by
  rw [stepTable_eq_map_stepRow] at h
  obtain ⟨hlt, hr⟩ := List.getElem?_eq_some_iff.mp h
  simpa using hr.symm

/-- Settles O57: the table is the list of the formulas' rows. -/
theorem stepTableIsTheFormulas : Obligations.StepTableIsTheFormulas := by
  refine ⟨rfl, fun i r h => ?_⟩
  obtain rfl := getElem?_stepTable h
  exact ⟨rfl, rfl, rfl, referenceFunction_stepFunctionName i⟩

/-! ### `compress` and the reference MD5 (`40_md5_compressor.md` R125, R133) -/

theorem shiftAmount_lt (i : Nat) : shiftAmount i < 32 := by
  have h : ∀ n ∈ [4, 5, 6, 7, 9, 10, 11, 12, 14, 15, 16, 17, 20, 21, 22, 23], n < 32 := by decide
  exact h _ (shiftAmount_mem i)

section
variable (m : List Word)

theorem referenceOp_stepRow (i : Nat) (w : Digest) :
    referenceOp m (stepRow i) w.a w.b w.c w.d = (md5Step m i w).b :=
  referenceOp_eq_md5Step m w (referenceFunction_stepFunctionName i) rfl rfl rfl (shiftAmount_lt i)

/-- A step computes one word by the reference's operation and moves the other three on. -/
theorem md5Words_succ (i : Nat) :
    md5Words m (i + 1) =
      { a := (md5Words m i).d
        b := referenceOp m (stepRow i) (md5Words m i).a (md5Words m i).b (md5Words m i).c (md5Words m i).d
        c := (md5Words m i).b
        d := (md5Words m i).c } := by
  rw [referenceOp_stepRow]
  rfl

/-- Four in-place operations are four steps: after four of them every word is back in its place. -/
theorem referenceOps_four (i : Nat) (rows : List StepRow) :
    referenceOps m (stepRow i :: stepRow (i + 1) :: stepRow (i + 2) :: stepRow (i + 3) :: rows)
      (md5Words m i) = referenceOps m rows (md5Words m (i + 4)) := by
  rw [referenceOps, md5Words_succ m (i + 3), md5Words_succ m (i + 2), md5Words_succ m (i + 1),
    md5Words_succ m i]

theorem referenceOps_stepRows (n i : Nat) :
    referenceOps m ((List.range' i (4 * n)).map stepRow) (md5Words m i) = md5Words m (i + 4 * n) := by
  induction n generalizing i with
  | zero => rfl
  | succ n ih =>
    have hrows : (List.range' i (4 * (n + 1))).map stepRow =
        stepRow i :: stepRow (i + 1) :: stepRow (i + 2) :: stepRow (i + 3) ::
          (List.range' (i + 4) (4 * n)).map stepRow := rfl
    rw [hrows, referenceOps_four, ih, Nat.add_assoc, Nat.mul_succ, Nat.add_comm 4]

theorem referenceOps_stepTable : referenceOps m stepTable initialDigest = md5Words m 64 := by
  rw [stepTable_eq_map_stepRow, List.range_eq_range']
  exact referenceOps_stepRows m 16 0

end

theorem compress_eq_referenceBlock (x : OtpPair) : compress x = referenceBlock (block x) := by
  have hops := referenceOps_stepTable (block x)
  unfold initialDigest at hops
  rw [compress, compressBlock, referenceBlock, hops, feedback]
  simp only [initialDigest, BitVec.add_comm]

/-! ### The bytes of the message and of the digest (`20_memory.md` R68, `40_md5_compressor.md` R133) -/

theorem word_eq_append_bytes (w : Word) :
    (w.extractLsb' 24 8 ++ w.extractLsb' 16 8 ++ w.extractLsb' 8 8 ++ w.extractLsb' 0 8 : BitVec 32) = w := by
  apply BitVec.eq_of_getLsbD_eq
  intro i hi
  simp only [BitVec.getLsbD_append, BitVec.getLsbD_extractLsb']
  split_ifs
  all_goals
    rw [decide_eq_true (by omega), Bool.true_and]
    congr 1
    omega

theorem wordsOfBytes_wordBytes_append (w : Word) (rest : List Byte) :
    wordsOfBytes (wordBytes w ++ rest) = w :: wordsOfBytes rest :=
  congrArg (· :: wordsOfBytes rest) (word_eq_append_bytes w)

/-- What follows the 8 message bytes in the block. -/
def messagePadding : List Byte :=
  [0x80#8] ++ List.replicate 47 0x00#8 ++ wordBytes 0x40#32 ++ wordBytes 0#32

theorem paddedBytes_messageBytes (x : OtpPair) :
    paddedBytes (messageBytes x) = wordBytes x.lo ++ (wordBytes x.hi ++ messagePadding) := rfl

theorem wordsOfBytes_messagePadding : wordsOfBytes messagePadding =
    [0x80#32, 0#32, 0#32, 0#32, 0#32, 0#32, 0#32, 0#32, 0#32, 0#32, 0#32, 0#32, 0x40#32, 0#32] := by
  decide

theorem wordsOfBytes_paddedBytes (x : OtpPair) : wordsOfBytes (paddedBytes (messageBytes x)) = block x := by
  rw [paddedBytes_messageBytes, wordsOfBytes_wordBytes_append, wordsOfBytes_wordBytes_append,
    wordsOfBytes_messagePadding]
  rfl

theorem wordsOfBytes_digestBytes (w : Digest) : wordsOfBytes (digestBytes w) = [w.a, w.b, w.c, w.d] := by
  have happend : digestBytes w =
      wordBytes w.a ++ (wordBytes w.b ++ (wordBytes w.c ++ (wordBytes w.d ++ []))) := rfl
  simp only [happend, wordsOfBytes_wordBytes_append, wordsOfBytes]

theorem md5OneBlock_messageBytes (x : OtpPair) : md5OneBlock (messageBytes x) = digestBytes (compress x) := by
  rw [md5OneBlock, wordsOfBytes_paddedBytes, compress_eq_referenceBlock]

/-- Settles O53: the block by `wordsOfBytes_paddedBytes`, the digest by `compress_eq_referenceBlock`, its bytes by
`md5OneBlock_messageBytes`. -/
theorem compressIsMd5OfTheMessageBytes : Obligations.CompressIsMd5OfTheMessageBytes := by
  intro x
  rw [md5OneBlock_messageBytes]
  exact ⟨rfl, wordsOfBytes_paddedBytes x, compress_eq_referenceBlock x, rfl, wordsOfBytes_digestBytes _⟩

end Sys2Proof.Machine
end

section
/-! PROOFS. The run of a command: the state after each step of the loops of ITERATE and CHAIN, and the run from the
command write to the end of the WAIT. -/

namespace Sys2Proof.Machine

/-! ### The working state after some rounds (`43_single_result_iterator.md` R170) -/

/-- CUR after `n` rounds from `x`. -/
def curAfter (x : OtpPair) (n : Nat) : OtpPair :=
  unpack (otpIterate (pack x) n)

/-- DIG after `n` rounds from `x`, where it was `d` before: the digest of the last round. -/
def digAfter (d : Digest) (x : OtpPair) : Nat → Digest
  | 0 => d
  | n + 1 => compress (curAfter x n)

section
variable (x : OtpPair) (n : Nat)

@[simp] theorem curAfter_zero : curAfter x 0 = x := unpack_pack x

theorem curAfter_succ : curAfter x (n + 1) = otpRound (curAfter x n) := by
  rw [curAfter, otpIterate, round64, unpack_pack, curAfter]

@[simp] theorem pack_curAfter : pack (curAfter x n) = otpIterate (pack x) n := pack_unpack _

theorem digAfter_eq_ite (d : Digest) :
    digAfter d x n = if n = 0 then d else compress (curAfter x (n - 1)) := by
  cases n <;> rfl

end

/-- The composition of iterations (`43_single_result_iterator.md` R175). -/
theorem otpIterate_add (v : BitVec 64) (n m : Nat) :
    otpIterate v (n + m) = otpIterate (otpIterate v n) m := by
  induction m with
  | zero => rfl
  | succ m ih => rw [← Nat.add_assoc, otpIterate, otpIterate, ih]

theorem curAfter_add (x : OtpPair) (n m : Nat) : curAfter x (n + m) = curAfter (curAfter x n) m := by
  rw [curAfter, otpIterate_add, ← pack_curAfter, ← curAfter]

/-! ### A block in the loop of ITERATE or CHAIN -/

/-- The command with opcode `op`, accepted in `s`, after `i` steps of its loop, of which `j` applied a round, with
`m` in the OUT space. -/
def inLoop (op : BitVec 4) (s : State) (i j : Nat) (m : Memory) : State :=
  { accept op s with
    cur := curAfter s.seed j, dig := digAfter s.dig s.seed j, idx := BitVec.ofNat 32 i, mem := m }

section
variable (op : BitVec 4) (s : State) (i j : Nat) (m : Memory)

theorem loadSeed_accept_eq_inLoop : loadSeed (accept op s) = inLoop op s 0 0 s.mem := by
  rw [inLoop, curAfter_zero]
  rfl

theorem advance_inLoop : advance (inLoop op s i j m) = inLoop op s (i + 1) (j + 1) m := by
  have hidx : BitVec.ofNat 32 (i + 1) = BitVec.ofNat 32 i + 1#32 := BitVec.ofNat_add i 1
  rw [inLoop, inLoop, curAfter_succ, hidx]
  rfl

theorem bumpIdx_inLoop : bumpIdx (inLoop op s i j m) = inLoop op s (i + 1) j m := by
  have hidx : BitVec.ofNat 32 (i + 1) = BitVec.ofNat 32 i + 1#32 := BitVec.ofNat_add i 1
  rw [inLoop, inLoop, hidx]
  rfl

theorem recordCur_inLoop : recordCur (inLoop op s i j m) =
    inLoop op s i j (outWrite m (BitVec.ofNat 32 i) (otpIterate (pack s.seed) j)) := by
  rw [← pack_curAfter]
  rfl

end

theorem toNat_ofNat_of_lt {i : Nat} (h : i < 2 ^ 32) : (BitVec.ofNat 32 i).toNat = i :=
  (BitVec.toNat_ofNat i 32).trans (Nat.mod_eq_of_lt h)

theorem toNat_ofNat_of_le {i : Nat} {n : Word} (h : i ≤ n.toNat) : (BitVec.ofNat 32 i).toNat = i :=
  toNat_ofNat_of_lt (Nat.lt_of_le_of_lt h n.isLt)

/-- A WAIT or an empty queue gives the core every turn. -/
def CoreKeepsTurn (s : State) : Prop :=
  s.events = [] ∨ ∃ rest, s.events = .wait :: rest

theorem step_of_coreKeepsTurn {s : State} (hb : s.status.busy = true) (hq : CoreKeepsTurn s) :
    step s = coreStep s := by
  rcases hq with he | ⟨rest, he⟩
  · exact step_nil_busy hb he
  · exact step_wait_busy hb he

/-! ### The loop of ITERATE (`43_single_result_iterator.md` R172) -/

/-- ITERATE, accepted in `s`, after `i` rounds. -/
def iterateAfter (s : State) (i : Nat) : State :=
  inLoop 4#4 s i i s.mem

section
variable {s : State} {i : Nat}

theorem step_iterateAfter (hq : CoreKeepsTurn s) (i : Nat) :
    step (iterateAfter s i) = .next (stepIterate (iterateAfter s i)) :=
  calc step (iterateAfter s i)
    _ = coreStep (iterateAfter s i) := step_of_coreKeepsTurn (s := iterateAfter s i) rfl hq
    _ = exec .iterate (iterateAfter s i) := coreStep_of_opl rfl
    _ = .next (stepIterate (iterateAfter s i)) := exec_iterate_busy rfl

theorem step_iterateAfter_round (hq : CoreKeepsTurn s) (hi : i < s.rounds.toNat) :
    step (iterateAfter s i) = .next (iterateAfter s (i + 1)) := by
  have hidx : (iterateAfter s i).idx.toNat < (iterateAfter s i).rounds.toNat :=
    (toNat_ofNat_of_le hi.le).trans_lt hi
  rw [step_iterateAfter hq, stepIterate_round hidx]
  exact congrArg Host.Outcome.next (advance_inLoop _ _ _ _ _)

theorem step_iterateAfter_done (hq : CoreKeepsTurn s) :
    step (iterateAfter s s.rounds.toNat) = .next (complete (iterateAfter s s.rounds.toNat)) := by
  have hidx : (iterateAfter s s.rounds.toNat).rounds.toNat ≤ (iterateAfter s s.rounds.toNat).idx.toNat :=
    (toNat_ofNat_of_le le_rfl).ge
  rw [step_iterateAfter hq, stepIterate_done hidx]

theorem step_iterate_acceptance {q : List Event} (hb : s.status.busy = false)
    (he : s.events = lineCmd .iterate :: q) (hr : s.rounds ≤ s.params.maxRounds) :
    step s = .next (iterateAfter (setEvents q s) 0) := by
  rw [step_lineCmd hb he, exec_iterate_idle (s := setEvents q s) hb,
    acceptIterate_accepts (s := setEvents q s) (BitVec.le_def.mp hr), loadSeed_accept_eq_inLoop]
  rfl

end

/-! ### The loop of CHAIN (`44_chain_generator.md` R187) -/

/-- The OUT space after elements 0 to `n - 1` of the chain from `v` have been written, in this order. -/
def chainMem (m : Memory) (v : BitVec 64) : Nat → Memory
  | 0 => m
  | n + 1 => outWrite (chainMem m v n) (BitVec.ofNat 32 n) (otpIterate v n)

/-- CHAIN, accepted in `s`, after `i` element steps; the last one applies no round. -/
def chainAfter (s : State) (i : Nat) : State :=
  inLoop 5#4 s i (min i (s.rounds.toNat - 1)) (chainMem s.mem (pack s.seed) i)

theorem readElement_chainMem (m : Memory) (v : BitVec 64) {n i : Nat} (hn : n ≤ 2 ^ 32) (hi : i < n) :
    readElement (chainMem m v n) i = some (otpIterate v i) := by
  induction n with
  | zero => omega
  | succ n ih =>
    have hidx : (BitVec.ofNat 32 n).toNat = n := toNat_ofNat_of_lt (by omega)
    by_cases hlast : i = n
    · have hread := readElement_outWrite_same (chainMem m v n) (BitVec.ofNat 32 n) (otpIterate v n)
      rw [hidx] at hread
      rw [hlast]
      exact hread
    · rw [chainMem, readElement_outWrite_other _ _ (by omega)]
      exact ih (by omega) (by omega)

/-- Nothing is written from element `n` on. -/
theorem readByte_chainMem (m : Memory) (v : BitVec 64) {n addr : Nat} (hn : n ≤ 2 ^ 32)
    (haddr : 8 * n ≤ addr) : readByte (chainMem m v n) addr = readByte m addr := by
  induction n with
  | zero => rfl
  | succ n ih =>
    have hidx : (BitVec.ofNat 32 n).toNat = n := toNat_ofNat_of_lt (by omega)
    rw [chainMem, readByte_outWrite, elementAddr, hidx, if_neg (by omega)]
    exact ih (by omega) (by omega)

section
variable {s : State} {i : Nat}

theorem elementStep_chainAfter (hi : i < s.rounds.toNat) :
    elementStep (chainAfter s i) = chainAfter s (i + 1) := by
  have hidx : (chainAfter s i).idx.toNat = i := toNat_ofNat_of_le hi.le
  have hmin : min i (s.rounds.toNat - 1) = i := by omega
  have hrec : recordCur (chainAfter s i) = inLoop 5#4 s i i (chainMem s.mem (pack s.seed) (i + 1)) := by
    rw [chainAfter, recordCur_inLoop, hmin]
    rfl
  rcases Nat.lt_or_eq_of_le (Nat.succ_le_of_lt hi) with hnext | hlast
  · have hmin' : min (i + 1) (s.rounds.toNat - 1) = i + 1 := by omega
    rw [elementStep_advances (s := chainAfter s i) (hidx.symm ▸ hnext), hrec, advance_inLoop, chainAfter, hmin']
  · have hmin' : min (i + 1) (s.rounds.toNat - 1) = i := by omega
    rw [elementStep_last (s := chainAfter s i) (hidx.symm ▸ hlast), hrec, bumpIdx_inLoop, chainAfter, hmin']

theorem step_chainAfter (hq : CoreKeepsTurn s) (i : Nat) :
    step (chainAfter s i) = stepChain (chainAfter s i) :=
  calc step (chainAfter s i)
    _ = coreStep (chainAfter s i) := step_of_coreKeepsTurn (s := chainAfter s i) rfl hq
    _ = exec .chain (chainAfter s i) := coreStep_of_opl rfl
    _ = stepChain (chainAfter s i) := exec_chain_busy rfl

theorem step_chainAfter_element (hq : CoreKeepsTurn s) (hp : s.outStalled = false)
    (hbuf : s.rounds.toNat ≤ s.params.outSize) (hi : i < s.rounds.toNat) :
    step (chainAfter s i) = .next (chainAfter s (i + 1)) := by
  have hidx : (chainAfter s i).idx.toNat = i := toNat_ofNat_of_le hi.le
  rw [step_chainAfter hq, stepChain_element (s := chainAfter s i) (hidx.trans_lt hi) hp
    (hidx.trans_lt (hi.trans_le hbuf)), elementStep_chainAfter hi]

theorem step_chainAfter_done (hq : CoreKeepsTurn s) :
    step (chainAfter s s.rounds.toNat) = .next (complete (chainAfter s s.rounds.toNat)) := by
  have hidx : (chainAfter s s.rounds.toNat).rounds.toNat ≤ (chainAfter s s.rounds.toNat).idx.toNat :=
    (toNat_ofNat_of_le le_rfl).ge
  rw [step_chainAfter hq, stepChain_done hidx]

theorem step_chain_acceptance_eq {q : List Event} (hb : s.status.busy = false)
    (he : s.events = lineCmd .chain :: q) (hr : s.rounds ≤ s.params.maxRounds)
    (hc : s.rounds ≤ s.capacity) : step s = .next (chainAfter (setEvents q s) 0) := by
  rw [step_lineCmd hb he, exec_chain_idle (s := setEvents q s) hb,
    acceptChain_accepts (s := setEvents q s) (BitVec.le_def.mp hr) (BitVec.le_def.mp hc),
    loadSeed_accept_eq_inLoop, chainAfter, Nat.zero_min]
  rfl

end

/-! ### Runs -/

/-- The run through a sequence of states, each the next of the one before. -/
theorem run_sequence {f : Nat → State} {n : Nat} (h : ∀ i < n, step (f i) = .next (f (i + 1))) :
    ∀ k ≤ n, core.run k (f 0) = .next (f k) := by
  intro k
  induction k with
  | zero => exact fun _ => rfl
  | succ k ih =>
    intro hk
    rw [run_add 1 (ih (by omega)), run_succ 0 (h k hk)]
    rfl

/-- The run of a command and its WAIT: the acceptance, `n` steps of its loop, the step that ends BUSY, and the step
that takes the WAIT off. -/
theorem run_command {f : Nat → State} {s u : State} {n : Nat} {rest : List Event}
    (haccept : step s = .next (f 0)) (hloop : ∀ i < n, step (f i) = .next (f (i + 1)))
    (hdone : step (f n) = .next u) (hb : u.status.busy = false) (hq : u.events = .wait :: rest) :
    core.run (n + 3) s = .next (setEvents rest u) := by
  have hrun : core.run (1 + n) s = .next (f n) := by
    rw [Nat.add_comm, run_succ n haccept, run_sequence hloop n le_rfl]
  rw [show n + 3 = 1 + n + 2 by omega, run_add 2 hrun, run_succ 1 hdone, run_succ 0 (step_wait_idle hb hq)]
  rfl

/-- The run of a command with one step. -/
theorem run_singleStep {s t : State} {i : Instr} {rest : List Event} (hb : s.status.busy = false)
    (he : s.events = lineCmd i :: .wait :: rest)
    (haccept : exec i (setEvents (.wait :: rest) s) = .next (accept i.opcode (setEvents (.wait :: rest) s)))
    (hstep : exec i (accept i.opcode (setEvents (.wait :: rest) s)) = .next t)
    (hidle : t.status.busy = false) (hq : t.events = .wait :: rest) :
    core.run 3 s = .next (setEvents rest t) := by
  refine run_command (n := 0) (f := fun _ => accept i.opcode (setEvents (.wait :: rest) s))
    ((step_lineCmd hb he).trans haccept) (fun _ h => absurd h (Nat.not_lt_zero _)) ?_ hidle hq
  exact (step_wait_busy rfl rfl).trans ((coreStep_of_opl rfl).trans hstep)

/-- The state that ITERATE and its WAIT leave. -/
def iterateDone (rest : List Event) (s : State) : State :=
  setEvents rest (complete (iterateAfter s s.rounds.toNat))

/-- The state that CHAIN and its WAIT leave. -/
def chainDone (rest : List Event) (s : State) : State :=
  setEvents rest (complete (chainAfter s s.rounds.toNat))

section
variable {s : State} {rest : List Event}

theorem run_iterate (hb : s.status.busy = false) (he : s.events = lineCmd .iterate :: .wait :: rest)
    (hr : s.rounds ≤ s.params.maxRounds) : core.run (s.rounds.toNat + 3) s = .next (iterateDone rest s) :=
  have hq : CoreKeepsTurn (setEvents (.wait :: rest) s) := .inr ⟨rest, rfl⟩
  run_command (f := iterateAfter (setEvents (.wait :: rest) s))
    (u := complete (iterateAfter (setEvents (.wait :: rest) s) s.rounds.toNat)) (step_iterate_acceptance hb he hr)
    (fun _ hi => step_iterateAfter_round hq hi) (step_iterateAfter_done hq) rfl rfl

theorem run_chain (hb : s.status.busy = false) (he : s.events = lineCmd .chain :: .wait :: rest)
    (hr : s.rounds ≤ s.params.maxRounds) (hc : s.rounds ≤ s.capacity) (hbuf : BufferPremise s)
    (hp : s.outStalled = false) : core.run (s.rounds.toNat + 3) s = .next (chainDone rest s) :=
  have hq : CoreKeepsTurn (setEvents (.wait :: rest) s) := .inr ⟨rest, rfl⟩
  have hsize : s.rounds.toNat ≤ s.params.outSize := Nat.le_trans (BitVec.le_def.mp hc) hbuf
  run_command (f := chainAfter (setEvents (.wait :: rest) s))
    (u := complete (chainAfter (setEvents (.wait :: rest) s) s.rounds.toNat)) (step_chain_acceptance_eq hb he hr hc)
    (fun _ hi => step_chainAfter_element hq hp hsize hi) (step_chainAfter_done hq) rfl rfl

end

end Sys2Proof.Machine
end

section
/-! PROOFS. The five commands as whole commands, with the examples of the spec, and what follows from them. -/

namespace Sys2Proof.Machine

/-! ### COMPRESS, FOLD and ROUND (`40_md5_compressor.md` R127, `41_folder.md` R152, `42_round_function.md` R162) -/

section
variable {s : State} {rest : List Event}

theorem run_compress (hb : s.status.busy = false) (he : s.events = lineCmd .compress :: .wait :: rest) :
    core.run 3 s = .next (setEvents rest (stepCompress (accept 1#4 s))) :=
  run_singleStep (t := stepCompress (accept 1#4 (setEvents (.wait :: rest) s))) hb he
    (exec_compress_idle hb) (exec_compress_busy rfl) rfl rfl

theorem run_fold (hb : s.status.busy = false) (he : s.events = lineCmd .fold :: .wait :: rest) :
    core.run 3 s = .next (setEvents rest (stepFold (accept 2#4 s))) :=
  run_singleStep (t := stepFold (accept 2#4 (setEvents (.wait :: rest) s))) hb he
    (exec_fold_idle hb) (exec_fold_busy rfl) rfl rfl

theorem run_round (hb : s.status.busy = false) (he : s.events = lineCmd .round :: .wait :: rest) :
    core.run 3 s = .next (setEvents rest (stepRound (accept 3#4 s))) :=
  run_singleStep (t := stepRound (accept 3#4 (setEvents (.wait :: rest) s))) hb he
    (exec_round_idle hb) (exec_round_busy rfl) rfl rfl

end

/-- Settles O14, by `run_compress`; the example is evaluated. -/
theorem compressWholeCommand : Obligations.CompressWholeCommand :=
  ⟨fun _ _ => run_compress, by decide +kernel⟩

/-- Settles O15, by `run_fold`; the example is evaluated. -/
theorem foldWholeCommand : Obligations.FoldWholeCommand :=
  ⟨fun _ _ => run_fold, by decide⟩

/-- Settles O16, by `run_round`; the example is evaluated. -/
theorem roundWholeCommand : Obligations.RoundWholeCommand :=
  ⟨fun _ _ => run_round, by decide +kernel⟩

/-! ### ITERATE (`43_single_result_iterator.md` R173, R178) -/

theorem ofNat_toNat_word (n : Word) : BitVec.ofNat 32 n.toNat = n :=
  (BitVec.ofNat_toNat 32 n).trans (BitVec.setWidth_eq n)

/-- Everything ITERATE and its WAIT leave. -/
theorem iterateDone_eq (rest : List Event) (s : State) : iterateDone rest s = { s with
    cur := curAfter s.seed s.rounds.toNat
    dig := digAfter s.dig s.seed s.rounds.toNat
    status := { busy := false, done := true, err := false, wrlost := s.status.wrlost, errcode := 0#4 }
    idx := s.rounds
    opl := 4#4
    events := rest } := by
  rw [iterateDone, iterateAfter, inLoop, ofNat_toNat_word]
  rfl

/-- The two spellings of "no round": on words and on numbers. -/
theorem digAfter_rounds (d : Digest) (x : OtpPair) (n : Word) :
    digAfter d x n.toNat = if n = 0#32 then d else compress (curAfter x (n.toNat - 1)) := by
  have hzero : n.toNat = 0 ↔ n = 0#32 := (BitVec.toNat_eq (x := n) (y := 0#32)).symm
  rw [digAfter_eq_ite]
  simp only [hzero]

/-- Settles O17, by `run_iterate` and `iterateDone_eq`; the example is evaluated. -/
theorem iterateWholeCommand : Obligations.IterateWholeCommand := by
  refine ⟨fun s rest hb he hr => ?_, by decide +kernel⟩
  rw [run_iterate hb he hr, iterateDone_eq, digAfter_rounds]
  rfl

/-- Settles O19: with an empty queue after the command write, by the sequence of the states of the loop. -/
theorem iterateCompletesAfterRoundsPlusOneSteps : Obligations.IterateCompletesAfterRoundsPlusOneSteps := by
  intro s hb he hr
  have hq : CoreKeepsTurn (setEvents [] s) := .inl rfl
  have haccept := step_iterate_acceptance hb he hr
  have hloop : ∀ k ≤ s.rounds.toNat, core.run (k + 1) s = .next (iterateAfter (setEvents [] s) k) :=
    fun k hk => (run_succ k haccept).trans
      (run_sequence (f := iterateAfter (setEvents [] s)) (fun _ hi => step_iterateAfter_round hq hi) k hk)
  refine ⟨fun k hk => ⟨_, hloop k hk, rfl⟩,
    complete (iterateAfter (setEvents [] s) s.rounds.toNat), ?_, rfl, rfl⟩
  exact (run_add 1 (hloop _ le_rfl)).trans (run_succ 0 (step_iterateAfter_done hq))

/-! ### CHAIN (`44_chain_generator.md` R188) -/

/-- Everything CHAIN and its WAIT leave. -/
theorem chainDone_eq (rest : List Event) (s : State) : chainDone rest s = { s with
    mem := chainMem s.mem (pack s.seed) s.rounds.toNat
    cur := curAfter s.seed (s.rounds.toNat - 1)
    dig := digAfter s.dig s.seed (s.rounds.toNat - 1)
    status := { busy := false, done := true, err := false, wrlost := s.status.wrlost, errcode := 0#4 }
    idx := s.rounds
    opl := 5#4
    events := rest } := by
  rw [chainDone, chainAfter, inLoop, ofNat_toNat_word, Nat.min_eq_right (Nat.sub_le _ _)]
  rfl

/-- A chain of at most one element applies no round. -/
theorem digAfter_rounds_sub_one (d : Digest) (x : OtpPair) (n : Word) :
    digAfter d x (n.toNat - 1) = if n ≤ 1#32 then d else compress (curAfter x (n.toNat - 2)) := by
  have hone : n.toNat - 1 = 0 ↔ n ≤ 1#32 := Nat.sub_eq_zero_iff_le
  rw [digAfter_eq_ite, Nat.sub_sub]
  simp only [hone]

/-- Settles O18, by `run_chain` and `chainDone_eq`; the order of the writes by the sequence of the states of the
loop; the example is evaluated. -/
theorem chainWholeCommand : Obligations.ChainWholeCommand := by
  refine ⟨fun s rest hb he hr hc hbuf hp => ⟨?_, fun k hk => ?_⟩, by decide +kernel⟩
  · refine ⟨chainMem s.mem (pack s.seed) s.rounds.toNat, ?_,
      fun i => readElement_chainMem _ _ s.rounds.isLt.le, fun addr => readByte_chainMem _ _ s.rounds.isLt.le⟩
    rw [run_chain hb he hr hc hbuf hp, chainDone_eq, digAfter_rounds_sub_one]
    rfl
  · have hq : CoreKeepsTurn (setEvents (.wait :: rest) s) := .inr ⟨rest, rfl⟩
    have hsize : s.rounds.toNat ≤ s.params.outSize := Nat.le_trans (BitVec.le_def.mp hc) hbuf
    have hk32 : k ≤ 2 ^ 32 := hk.trans s.rounds.isLt.le
    refine ⟨chainAfter (setEvents (.wait :: rest) s) k, ?_, rfl, toNat_ofNat_of_le hk,
      fun i => readElement_chainMem _ _ hk32, fun addr => readByte_chainMem _ _ hk32⟩
    rw [run_succ k (step_chain_acceptance_eq hb he hr hc)]
    exact run_sequence (f := chainAfter (setEvents (.wait :: rest) s))
      (fun _ hi => step_chainAfter_element hq hp hsize hi) k hk

/-! ### The fields of the states that ITERATE and CHAIN leave -/

section
variable (rest : List Event) (s : State)

theorem iterateDone_cur : (iterateDone rest s).cur = curAfter s.seed s.rounds.toNat := rfl

theorem chainDone_cur : (chainDone rest s).cur = curAfter s.seed (s.rounds.toNat - 1) := by
  rw [chainDone_eq]

theorem readElement_chainDone {i : Nat} (hi : i < s.rounds.toNat) :
    readElement (chainDone rest s).mem i = some (otpIterate (pack s.seed) i) :=
  readElement_chainMem s.mem (pack s.seed) s.rounds.isLt.le hi

end

/-! ### Runs that begin with writes of the host -/

/-- A write of a host program at the head of a run. -/
theorem run_lineWr {s : State} {r : Reg} {v : Word} {q : List Event} (k : Nat) (hb : s.status.busy = false)
    (he : s.events = lineWr r v :: q) (hr : r ≠ .cmd) :
    core.run (k + 1) s = core.run k (storeReg r v (setEvents q s)) :=
  run_succ k (step_storeReg hb hr he)

/-- ROUNDS is written and ITERATE run with it. -/
theorem run_rounds_iterate {s : State} {n : Word} {rest : List Event} (hb : s.status.busy = false)
    (he : s.events = lineWr .rounds n :: lineCmd .iterate :: .wait :: rest) (hr : n ≤ s.params.maxRounds) :
    core.run (n.toNat + 4) s = .next (iterateDone rest (storeReg .rounds n s)) :=
  (run_lineWr (n.toNat + 3) hb he nofun).trans
    (run_iterate (s := storeReg .rounds n (setEvents (lineCmd .iterate :: .wait :: rest) s)) hb rfl hr)

/-- SEED and ROUNDS as the host writes them. -/
def loadOperands (x : OtpPair) (n : Word) (s : State) : State :=
  storeReg .rounds n (storeReg .seedHi x.hi (storeReg .seedLo x.lo s))

theorem run_loadOperands {s : State} {x : OtpPair} {n : Word} {q : List Event} (k : Nat)
    (hb : s.status.busy = false)
    (he : s.events = lineWr .seedLo x.lo :: lineWr .seedHi x.hi :: lineWr .rounds n :: q) :
    core.run (k + 3) s = core.run k (loadOperands x n (setEvents q s)) :=
  calc core.run (k + 3) s
    _ = core.run (k + 2) (storeReg .seedLo x.lo (setEvents (lineWr .seedHi x.hi :: lineWr .rounds n :: q) s)) :=
        run_lineWr (k + 2) hb he nofun
    _ = core.run (k + 1) (storeReg .seedHi x.hi (storeReg .seedLo x.lo (setEvents (lineWr .rounds n :: q) s))) :=
        run_lineWr (k + 1) hb rfl nofun
    _ = core.run k (loadOperands x n (setEvents q s)) :=
        run_lineWr k hb rfl nofun

/-- SEED and ROUNDS are written and ITERATE run with them. -/
theorem run_loadOperands_iterate {s : State} {x : OtpPair} {n : Word} {rest : List Event}
    (hb : s.status.busy = false)
    (he : s.events = lineWr .seedLo x.lo :: lineWr .seedHi x.hi :: lineWr .rounds n ::
      lineCmd .iterate :: .wait :: rest)
    (hr : n ≤ s.params.maxRounds) :
    core.run (n.toNat + 6) s = .next (iterateDone rest (loadOperands x n s)) :=
  (run_loadOperands (n.toNat + 3) hb he).trans
    (run_iterate (s := loadOperands x n (setEvents (lineCmd .iterate :: .wait :: rest) s)) hb rfl hr)

/-! ### ROUND and the other commands (`42_round_function.md` R164) -/

theorem curAfter_one (x : OtpPair) : curAfter x 1 = otpRound x := by
  rw [curAfter_succ, curAfter_zero]

theorem digAfter_one (d : Digest) (x : OtpPair) : digAfter d x 1 = compress x := by
  rw [digAfter, curAfter_zero]

/-- Element 1 of a chain is one round from the seed. -/
theorem readElement_one_chainDone (rest : List Event) {s : State} (h : 1 < s.rounds.toNat) :
    readElement (chainDone rest s).mem 1 = some (pack (otpRound s.seed)) := by
  rw [readElement_chainDone rest s h, ← pack_curAfter, curAfter_one]

/-- Settles O20: each program by the runs of its commands, and one round by `curAfter_one` and `digAfter_one`. -/
theorem commandsAgreeWithRound : Obligations.CommandsAgreeWithRound := by
  intro s rest hb
  refine ⟨setEvents rest (stepRound (accept 3#4 s)),
    run_round (s := { s with events := lineCmd .round :: .wait :: rest }) hb rfl, ?_, fun hmax => ?_,
    fun hmax hsize hp => ?_⟩
  · have hcompress := run_compress
      (s := { s with events := lineCmd .compress :: .wait :: lineCmd .fold :: .wait :: rest }) hb rfl
    exact ⟨_, (run_add 3 hcompress).trans (run_fold rfl rfl), rfl, rfl⟩
  · exact ⟨_, run_rounds_iterate (s := { s with
        events := lineWr .rounds 1#32 :: lineCmd .iterate :: .wait :: rest }) hb rfl hmax,
      digAfter_one s.dig s.seed, curAfter_one s.seed, rfl, rfl⟩
  · have hchain := run_chain (rest := rest) (s := storeReg .capacity 2#32 (storeReg .rounds 2#32
      (setEvents (lineCmd .chain :: .wait :: rest) s))) hb rfl hmax (BitVec.le_refl _) hsize hp
    have hrounds := run_lineWr (s := { s with
      events := lineWr .rounds 2#32 :: lineWr .capacity 2#32 :: lineCmd .chain :: .wait :: rest }) 6 hb rfl nofun
    have hcapacity := run_lineWr (s := storeReg .rounds 2#32 (setEvents
      (lineWr .capacity 2#32 :: lineCmd .chain :: .wait :: rest) s)) 5 hb rfl nofun
    exact ⟨_, hrounds.trans (hcapacity.trans hchain), readElement_one_chainDone rest Nat.one_lt_two⟩

/-! ### Composition and determinism (`43_single_result_iterator.md` R175) -/

/-- Settles O21: on the machine each ITERATE is `run_rounds_iterate`, and `curAfter_add` composes them. -/
theorem iterateComposes : Obligations.IterateComposes := by
  refine ⟨fun _ => rfl, otpIterate_add, fun s n m r rest hb hsum hr => ?_,
    fun s s' rest rest' hb hb' hseed hrounds hmax hmax' => ?_⟩
  · have hnm : (n + m).toNat = n.toNat + m.toNat :=
      BitVec.toNat_add_of_lt (Nat.lt_of_le_of_lt hsum s.params.maxRounds.isLt)
    have hn : n ≤ s.params.maxRounds := BitVec.le_def.mpr (by omega)
    have hm : m ≤ s.params.maxRounds := BitVec.le_def.mpr (by omega)
    have hsum' : n + m ≤ s.params.maxRounds := BitVec.le_def.mpr (hnm ▸ hsum)
    let q := lineWr .seedLo r.lo :: lineWr .seedHi r.hi :: lineWr .rounds m :: lineCmd .iterate :: .wait :: rest
    let t := iterateDone q (storeReg .rounds n s)
    refine ⟨t, iterateDone rest (loadOperands r m t), iterateDone rest (storeReg .rounds (n + m) s),
      run_rounds_iterate (s := { s with events := lineWr .rounds n :: lineCmd .iterate :: .wait :: q }) hb rfl hn,
      hr.symm, run_loadOperands_iterate rfl rfl hm,
      run_rounds_iterate (s := { s with
        events := lineWr .rounds (n + m) :: lineCmd .iterate :: .wait :: rest }) hb rfl hsum', ?_⟩
    calc (iterateDone rest (loadOperands r m t)).cur
      _ = curAfter r m.toNat := rfl
      _ = curAfter (curAfter s.seed n.toNat) m.toNat := congrArg (curAfter · m.toNat) hr
      _ = curAfter s.seed (n + m).toNat := by rw [hnm, curAfter_add]
  · refine ⟨iterateDone rest s, iterateDone rest' s',
      run_iterate (s := { s with events := lineCmd .iterate :: .wait :: rest }) hb rfl hmax, ?_, ?_⟩
    · rw [hrounds]
      exact run_iterate (s := { s' with events := lineCmd .iterate :: .wait :: rest' }) hb' rfl hmax'
    · rw [iterateDone_cur, iterateDone_cur, hseed, hrounds]

/-! ### The elements of a chain (`44_chain_generator.md` R193) -/

theorem length_otpChain (v : BitVec 64) (n : Nat) : (otpChain v n).length = n := by
  simp [otpChain]

theorem getElem?_otpChain (v : BitVec 64) {n i : Nat} (h : i < n) :
    (otpChain v n)[i]? = some (otpIterate v i) := by
  simp [otpChain, h]

/-- Settles O22: the element that CHAIN leaves and the CUR that ITERATE leaves are the same iterate. -/
theorem chainElementsAreIterates : Obligations.ChainElementsAreIterates := by
  refine ⟨fun v n => ⟨length_otpChain v n, fun i hi => getElem?_otpChain v hi⟩,
    fun s rest i hb hr hc hbuf hp hi => ?_⟩
  have hir : i ≤ s.params.maxRounds := BitVec.le_trans (BitVec.le_of_lt hi) hr
  refine ⟨chainDone rest s, iterateDone rest (storeReg .rounds i s),
    run_chain (s := { s with events := lineCmd .chain :: .wait :: rest }) hb rfl hr hc hbuf hp,
    run_rounds_iterate (s := { s with
      events := lineWr .rounds i :: lineCmd .iterate :: .wait :: rest }) hb rfl hir, ?_⟩
  rw [readElement_chainDone rest s (BitVec.lt_def.mp hi), iterateDone_cur, pack_curAfter]
  rfl

end Sys2Proof.Machine
end

section
/-! PROOFS. The two entry points of the host, the faults as the host reads them, and completion. -/

namespace Sys2Proof.Machine

/-! ### The STATUS words after a completion and after a rejection (`30_encoding.md` R92) -/

theorem statusWord_completed_accepted (st : Status) :
    statusWord (statusCompleted (statusAccepted st)) = if st.wrlost then 0x0A#32 else 0x02#32 := by
  have hword : ∀ wrlost : Bool, statusWord
      { busy := false, done := true, err := false, wrlost := wrlost, errcode := 0#4 } =
        if wrlost then 0x0A#32 else 0x02#32 := by decide
  exact hword st.wrlost

/-- The STATUS word after a rejection of an idle block. -/
def rejectedWord (f : CmdFault) (wrlost : Bool) : Word :=
  match f with
  | .illegalCmd => if wrlost then 0x1C#32 else 0x14#32
  | .roundsRange => if wrlost then 0x2C#32 else 0x24#32
  | .capacity => if wrlost then 0x3C#32 else 0x34#32

theorem statusWord_rejected {st : Status} (f : CmdFault) (hb : st.busy = false) :
    statusWord (statusRejected f st) = rejectedWord f st.wrlost := by
  have hword : ∀ wrlost : Bool, statusWord
      { busy := false, done := false, err := true, wrlost := wrlost, errcode := faultCode f } =
        rejectedWord f wrlost := by cases f <;> decide
  rw [statusRejected, hb]
  exact hword st.wrlost

/-! ### The fault of a command word, by its condition (`60_exceptions.md` R201 to R203) -/

section
variable {s : State} {w : Word} {i : Instr}

theorem commandFault_of_instr (h : decode w = .instr i) : commandFault w s = operandFault i s := by
  rw [commandFault, h]

theorem commandFault_of_illegal (h : ∀ i, decode w ≠ .instr i) : commandFault w s = some .illegalCmd := by
  obtain ⟨why, hd⟩ := exists_reject_of_decode_ne_instr h
  rw [commandFault, hd]

theorem operandFault_iterate (h : s.params.maxRounds < s.rounds) :
    operandFault .iterate s = some .roundsRange :=
  if_pos ((roundsOutOfRange_iff s).mpr h)

theorem operandFault_chain_roundsRange (h : s.params.maxRounds < s.rounds) :
    operandFault .chain s = some .roundsRange :=
  if_pos ((roundsOutOfRange_iff s).mpr h)

theorem operandFault_chain_capacity (hr : s.rounds ≤ s.params.maxRounds) (hc : s.capacity < s.rounds) :
    operandFault .chain s = some .capacity := by
  have hrange : ¬ roundsOutOfRange s = true := by
    rw [roundsOutOfRange_iff]
    exact Nat.not_lt.mpr hr
  exact (if_neg hrange).trans (if_pos ((capacityTooSmall_iff s).mpr hc))

theorem encode_mem (i : Instr) : encode i ∈ [0x1#32, 0x2#32, 0x3#32, 0x4#32, 0x5#32] := by
  cases i <;> decide

theorem decode_ne_instr_of_not_mem (h : w ∉ [0x1#32, 0x2#32, 0x3#32, 0x4#32, 0x5#32]) (i : Instr) :
    decode w ≠ .instr i :=
  fun hd => h (decode_eq_instr_iff.mp hd ▸ encode_mem i)

/-- A rejected CMD write and the STATUS read after it. -/
theorem run_fault_statusRead {f : CmdFault} {rest : List Event} (hb : s.status.busy = false)
    (he : s.events = .hostWrite 0x00 4 w :: lineRd .status :: rest) (hf : commandFault w s = some f) :
    core.run 2 s = .next { s with
      status := statusRejected f s.status
      reads := rejectedWord f s.status.wrlost :: s.reads
      events := rest } := by
  have hread := step_hostRead_specified (r := .status) (s := reject f s) rest (readIsDrawn_of_specified rfl)
  rw [show regValue .status (reject f s) = rejectedWord f s.status.wrlost from statusWord_rejected f hb] at hread
  exact (run_succ 1 (step_commandWrite_of_fault hb he hf)).trans (run_succ 0 hread)

end

/-- Settles O31: the fault of the word under each condition, and `run_fault_statusRead`. -/
theorem faultIsReadInStatusByPriority : Obligations.FaultIsReadInStatusByPriority := by
  refine fun s w rest hb he => ⟨fun hw => ?_, fun hw hr => ?_, fun hw hr hc => ?_⟩
  · exact run_fault_statusRead hb he (commandFault_of_illegal (decode_ne_instr_of_not_mem hw))
  · refine run_fault_statusRead (f := .roundsRange) hb he ?_
    obtain rfl | rfl : w = 4#32 ∨ w = 5#32 := by simpa using hw
    · exact (commandFault_of_instr (decode_encode .iterate)).trans (operandFault_iterate hr)
    · exact (commandFault_of_instr (decode_encode .chain)).trans (operandFault_chain_roundsRange hr)
  · subst hw
    exact run_fault_statusRead (f := .capacity) hb he
      ((commandFault_of_instr (decode_encode .chain)).trans (operandFault_chain_capacity hr hc))

/-! ### The parts of a host program (`30_encoding.md` R104) -/

section
variable {s : State} {rest : List Event}

/-- A command with a fault and the WAIT after it, which ends at once. -/
theorem run_rejected {i : Instr} {f : CmdFault} (hb : s.status.busy = false)
    (he : s.events = lineCmd i :: .wait :: rest) (hf : operandFault i s = some f) :
    core.run 2 s = .next (reject f (setEvents rest s)) := by
  have hfault : commandFault (encode i) s = some f := (commandFault_of_instr (decode_encode i)).trans hf
  exact (run_succ 1 (step_commandWrite_of_fault hb he hfault)).trans (run_succ 0 (step_wait_idle hb rfl))

/-- A read of a host program whose value is specified. -/
theorem step_lineRd {r : Reg} (he : s.events = lineRd r :: rest) (h : readIsDrawn r s = false) :
    step s = .next { s with events := rest, reads := regValue r s :: s.reads } :=
  (congrArg step (setEvents_self he).symm).trans (step_hostRead_specified rest h)

/-- The read of STATUS at the end of a program. -/
theorem run_statusRead (he : s.events = lineRd .status :: rest) :
    core.run 1 s = .next { s with events := rest, reads := statusWord s.status :: s.reads } :=
  run_succ 0 (step_lineRd he (readIsDrawn_of_specified rfl))

/-- The reads of STATUS and RES at the end of a program. -/
theorem run_resultReads (hb : s.status.busy = false)
    (he : s.events = lineRd .status :: lineRd .resLo :: lineRd .resHi :: rest) :
    core.run 3 s = .next { s with
      events := rest, reads := s.cur.hi :: s.cur.lo :: statusWord s.status :: s.reads } :=
  have hidle : ∀ (r : Reg) (q : List Event) (reads : List Word),
      readIsDrawn r { s with events := q, reads := reads } = false := fun _ _ _ => readIsDrawn_of_idle hb
  (run_succ 2 (step_lineRd he (readIsDrawn_of_idle hb))).trans
    ((run_succ 1 (step_lineRd rfl (hidle .resLo _ _))).trans (run_succ 0 (step_lineRd rfl (hidle .resHi _ _))))

end

/-! ### computeIterate (`30_encoding.md` R105) -/

/-- Settles O23: the operands and the command by `run_loadOperands_iterate`, or by `run_loadOperands` and
`run_rejected`, then the reads. -/
theorem computeIterateReturnsTheIterate : Obligations.ComputeIterateReturnsTheIterate := by
  intro s seed rounds rest hb he
  let reads := lineRd .status :: lineRd .resLo :: lineRd .resHi :: rest
  let loaded := loadOperands (unpack seed) rounds (setEvents (lineCmd .iterate :: .wait :: reads) s)
  refine ⟨fun hr => ?_, fun hr => ?_⟩
  · have hiterate := run_loadOperands_iterate (rest := reads) hb he hr
    have hreads := run_resultReads (s := iterateDone reads loaded) rfl rfl
    refine ⟨_, (run_add 3 hiterate).trans hreads, rfl, ?_⟩
    have hcur : (iterateDone reads loaded).cur = unpack (otpIterate seed rounds.toNat) :=
      congrArg (fun v => unpack (otpIterate v rounds.toNat)) (pack_unpack seed)
    rw [← hcur, ← statusWord_completed_accepted]
    rfl
  · have hreject := run_rejected (s := loaded) hb rfl (operandFault_iterate hr)
    have hreads := run_resultReads (s := reject .roundsRange (setEvents reads loaded)) hb rfl
    refine ⟨_, ((run_loadOperands 5 hb he).trans (run_add 3 hreject)).trans hreads, rfl, ?_⟩
    exact congrArg (s.cur.hi :: s.cur.lo :: · :: s.reads) (statusWord_rejected .roundsRange hb)

/-! ### computeChain (`30_encoding.md` R106) -/

/-- Settles O55: the operands by `run_loadOperands` and a write of CAPACITY, then `run_chain` or `run_rejected`,
then the read of STATUS. -/
theorem computeChainWritesTheChain : Obligations.ComputeChainWritesTheChain := by
  intro s seed capacity rounds rest hb he
  let q := lineCmd .chain :: .wait :: lineRd .status :: rest
  let loaded := storeReg .capacity capacity (loadOperands (unpack seed) rounds (setEvents q s))
  have hload : ∀ k, core.run (k + 4) s = core.run k loaded := fun k =>
    (run_loadOperands (k + 1) hb he).trans (run_lineWr k hb rfl nofun)
  have hrejected : ∀ f, operandFault .chain loaded = some f → ∃ t : State,
      core.run 7 s = .next t ∧ t.events = rest ∧ t.mem = s.mem ∧
      t.reads = rejectedWord f s.status.wrlost :: s.reads := by
    intro f hf
    have hreject := run_rejected (s := loaded) hb rfl hf
    have hread := run_statusRead (s := reject f (setEvents (lineRd .status :: rest) loaded)) rfl
    exact ⟨_, ((hload 3).trans (run_add 1 hreject)).trans hread, rfl, rfl,
      congrArg (· :: s.reads) (statusWord_rejected f hb)⟩
  refine ⟨fun hr hc hbuf hp => ?_, fun hr hc => hrejected .capacity (operandFault_chain_capacity hr hc),
    fun hr => hrejected .roundsRange (operandFault_chain_roundsRange hr)⟩
  have hchain := run_chain (s := loaded) hb rfl hr hc hbuf hp
  have hread := run_statusRead (s := chainDone (lineRd .status :: rest) loaded) rfl
  have hseed : pack loaded.seed = seed := pack_unpack seed
  refine ⟨_, ((hload (rounds.toNat + 4)).trans (run_add 1 hchain)).trans hread, rfl,
    congrArg (· :: s.reads) (statusWord_completed_accepted s.status), ?_, fun i hi => ?_, fun addr haddr => ?_⟩
  · calc pack (chainDone (lineRd .status :: rest) loaded).cur
      _ = otpIterate (pack loaded.seed) (rounds.toNat - 1) := by rw [chainDone_cur, pack_curAfter]; rfl
      _ = otpIterate seed (rounds.toNat - 1) := by rw [hseed]
  · calc readElement (chainDone (lineRd .status :: rest) loaded).mem i
      _ = some (otpIterate (pack loaded.seed) i) := readElement_chainDone _ loaded hi
      _ = some (otpIterate seed i) := by rw [hseed]
  · exact readByte_chainMem s.mem (pack loaded.seed) rounds.isLt.le haddr

/-! ### Every command in progress completes (`70_reset_and_hazards.md` R247) -/

/-- Within `n` steps the command is complete, with its operands as they were. -/
def CompletesWithin (n : Nat) (s : State) : Prop :=
  ∃ (k : Nat) (t : State), k ≤ n ∧ core.run k s = .next t ∧ t.status.busy = false ∧ t.status.done = true ∧
    t.seed = s.seed ∧ t.rounds = s.rounds ∧ t.capacity = s.capacity

section
variable {s t : State}

theorem CompletesWithin.mono {n m : Nat} (h : CompletesWithin n s) (hle : n ≤ m) : CompletesWithin m s := by
  obtain ⟨k, t, hk, hrest⟩ := h
  exact ⟨k, t, hk.trans hle, hrest⟩

theorem CompletesWithin.of_step {n : Nat} (h : CompletesWithin n t) (hstep : step s = .next t)
    (hseed : t.seed = s.seed) (hrounds : t.rounds = s.rounds) (hcap : t.capacity = s.capacity) :
    CompletesWithin (n + 1) s := by
  obtain ⟨k, u, hk, hrun, hb, hd, hseed', hrounds', hcap'⟩ := h
  exact ⟨k + 1, u, Nat.succ_le_succ hk, (run_succ k hstep).trans hrun, hb, hd, hseed'.trans hseed,
    hrounds'.trans hrounds, hcap'.trans hcap⟩

/-- A `CoreStep` completes the command, or counts a step of its loop, if its port does not hold it back. -/
theorem coreStep_completes_or_counts (hb : s.status.busy = true) (hp : s.opl = 5#4 → s.outStalled = false)
    (h : coreStep s = .next t) :
    (t.status.busy = false ∧ t.status.done = true) ∨
    (t.status.busy = true ∧ s.idx.toNat < s.rounds.toNat ∧ t.idx.toNat = s.idx.toNat + 1) := by
  rcases coreStep_cases hb h with ⟨-, rfl⟩ | ⟨-, rfl⟩ | ⟨-, rfl⟩ | ⟨-, hlt, rfl⟩ | ⟨-, -, rfl⟩ |
    ⟨-, hlt, -, -, rfl⟩ | ⟨ho, -, hp', rfl⟩ | ⟨-, -, rfl⟩
  · exact .inl ⟨rfl, rfl⟩
  · exact .inl ⟨rfl, rfl⟩
  · exact .inl ⟨rfl, rfl⟩
  · exact .inr ⟨hb, hlt, idx_succ_toNat hlt⟩
  · exact .inl ⟨rfl, rfl⟩
  · exact .inr ⟨(elementStep_status s).symm ▸ hb, hlt, (elementStep_idx s).symm ▸ idx_succ_toNat hlt⟩
  · simp [hp ho] at hp'
  · exact .inl ⟨rfl, rfl⟩

end

/-- By induction on the rounds that remain. -/
theorem completesWithin_of_queue_empty (n : Nat) {s : State} (hi : Inv s) (hbuf : BufferPremise s)
    (hb : s.status.busy = true) (he : s.events = []) (hp : s.opl = 5#4 → s.outStalled = false)
    (hn : s.rounds.toNat - s.idx.toNat = n) : CompletesWithin (n + 1) s := by
  induction n using Nat.strong_induction_on generalizing s with
  | _ n ih =>
    obtain ⟨t, hc⟩ := coreStep_answers hi hbuf hb
    have hstep : step s = .next t := (step_nil_busy hb he).trans hc
    have ho := coreStep_sameOperands hb hc
    rcases coreStep_completes_or_counts hb hp hc with ⟨hidle, hdone⟩ | ⟨hbusy, hlt, hidx⟩
    · exact ⟨1, t, by omega, run_succ 0 hstep, hidle, hdone, ho.seed, ho.rounds, ho.capacity⟩
    · have hbuf' : BufferPremise t := by
        unfold BufferPremise
        rw [ho.capacity, ho.params]
        exact hbuf
      have hfewer : t.rounds.toNat - t.idx.toNat < n := by rw [ho.rounds, hidx]; omega
      have hrest := ih _ hfewer (hi.coreStep hb hc) hbuf' hbusy ((coreStep_events hb hc).trans he)
        (fun h5 => ho.outStalled.trans (hp ((coreStep_opl_status hb hc).1.symm.trans h5))) rfl
      exact (hrest.mono hfewer).of_step hstep ho.seed ho.rounds ho.capacity

/-- Settles O46: the rounds that remain are at most ROUNDS, and a port let go costs one step more. -/
theorem everyCommandInProgressCompletes : Obligations.EveryCommandInProgressCompletes := by
  have hcompletes : ∀ s : State, Inv s → BufferPremise s → s.status.busy = true → s.events = [] →
      (s.opl = 5#4 → s.outStalled = false) → CompletesWithin (s.rounds.toNat + 1) s :=
    fun s hi hbuf hb he hp =>
      (completesWithin_of_queue_empty _ hi hbuf hb he hp rfl).mono (Nat.succ_le_succ (Nat.sub_le _ _))
  refine ⟨hcompletes, fun s hi hbuf hb he => ?_⟩
  have hstep : step s = .next (setOutStalled false (setEvents [] s)) := step_outPort he
  have hresumed := hcompletes _ (stepKeepsTheInvariant s _ hi hstep) hbuf hb rfl (fun _ => rfl)
  exact hresumed.of_step hstep rfl rfl rfl

end Sys2Proof.Machine
end
